-- ==== Sys2Proof/Word.lean ====
section
/-! DEFINITION. The bit-vector types of the model (spec/00_scope.md R8, R9; all quantities unsigned). -/

namespace Sys2Proof

/-- A byte: the unit of every exchange and of the Block Buffer (R9, R58). -/
abbrev Byte := BitVec 8

/-- A 32-bit command argument or card address (R8 `ARG_BITS`). -/
abbrev Word := BitVec 32

/-- A 6-bit command index (R8 `IDX_BITS`). -/
abbrev CmdIdx := BitVec 6

/-- A 7-bit frame checksum (R8 `CK_BITS`). -/
abbrev Ck := BitVec 7

/-- A 48-bit operation word, OPW (R82). -/
abbrev OpWord := BitVec 48

end Sys2Proof
end

