-- ==== Sys2Proof/Config.lean ====
section
/-! DEFINITION. The implementation parameters of spec/00_scope.md R8 and the free values of the model. -/

namespace Sys2Proof

/-- A bound that is a positive natural number or `INF` (R8 `POLL_LIMIT`, `OPCOND_LIMIT`). -/
inductive Limit
  | inf
  | upTo (n : Nat)
deriving DecidableEq, Repr

/-- How the Checksum Generator computes (R8 `CKSUM_MODE`; R101, R103).
`table` carries `CKSUM_PLACEHOLDER`, which is read in that mode only. -/
inductive CksumMode
  | crc7
  | table (placeholder : Ck)
deriving DecidableEq, Repr

/-- The parameters R8 leaves to the builder; fixed for the machine (R32). -/
structure Config where
  pollLimit        : Limit      -- `POLL_LIMIT`, OPEN (D7)
  opcondLimit      : Limit      -- `OPCOND_LIMIT`, OPEN, the host program's (D20)
  cksumMode        : CksumMode  -- `CKSUM_MODE` with `CKSUM_PLACEHOLDER` (D3)
  powerupExchanges : Nat        -- `POWERUP_EXCHANGES` (D18)
  csSettleUs       : Nat        -- `CS_SETTLE_US`; "no rule depends on it" (D17)
  hcsArg           : Word       -- `HCS_ARG`, the host program's (D19)
deriving DecidableEq, Repr

/-- A positive bound or `INF` (R8). -/
def Limit.positive : Limit → Bool
  | .inf => true
  | .upTo n => decide (0 < n)

/-- The parameter values R8 admits: limits positive, `POWERUP_EXCHANGES` positive and, since `cnt` counts it and "never
exceeds 511" (R26), at most 512 (DEDUCED, log 14, unsafe). -/
def Config.wf (c : Config) : Bool :=
  c.pollLimit.positive && c.opcondLimit.positive && decide (1 ≤ c.powerupExchanges) && decide (c.powerupExchanges ≤ 512)

/-- The reference or default value of every parameter (R8, "Open parameters" of spec/92_eei_decisions.md).
DESIGN CHOICE for the state after reset only (log 1, unsafe); `hcsArg` PRESUMED (log 17, unsafe). -/
def Config.reference : Config :=
  { pollLimit := .inf, opcondLimit := .inf, cksumMode := .crc7, powerupExchanges := 80, csSettleUs := 100,
    hcsArg := 0x40000000#32 }

/-- FREE VALUE: the byte the card answers to exchange number `n` once the script `State.card` is used up (R20, U20: "each
`Xchg` may return any value"; log 3, safe). -/
opaque Config.cardByte : Nat → Byte

/-- FREE VALUE: the byte the host finds at an index of `BUF` whose content the spec leaves undefined, one draw for every
(epoch, index) (R52, U1: "every byte of `BUF` is a free draw"; log 4, safe). -/
opaque Config.bufByte : Nat → Nat → Byte

end Sys2Proof
end

