-- ==== Sys2Proof/Syntax.lean ====
section
/-! DEFINITION. The operations of the block (spec/30_encoding.md R82, R83; spec/opcode_table.json). -/

namespace Sys2Proof

/-- One constructor per row of spec/opcode_table.json. The widths of the operands are their bounds: an index is 6 bits
(R84), and RESP has one row per legal length (R83). -/
inductive Instr
  | send (idx : CmdIdx) (arg : Word)   -- SEND idx, arg (R110)
  | resp1                              -- RESP 1 (R120)
  | resp2                              -- RESP 2 (R120)
  | resp5                              -- RESP 5 (R120)
  | rdblk (addr : Word)                -- RDBLK addr (R130)
  | release                            -- RELEASE (R150)
  | pwrup                              -- PWRUP (R152)
deriving DecidableEq, Repr

/-- The three legal response lengths (R8 `RESP_LENS`, R74). -/
inductive RespLen
  | one
  | two
  | five
deriving DecidableEq, Repr

/-- An operation as the host spells it before it is checked: the three fields of an OPW (R82). -/
structure OpFields where
  opc : BitVec 8
  a   : BitVec 8
  w   : BitVec 32
deriving DecidableEq, Repr

end Sys2Proof
end

