-- ==== Sys2Proof/WellFormed.lean ====
section
/-! DEFINITION. Which operation terms are legal forms (spec/30_encoding.md R83, R86). -/

namespace Sys2Proof

/-- R83, SEND: opcode 0x01 with an index of 0x00 to 0x3F. -/
def OpFields.sendForm (f : OpFields) : Bool := f.opc == 0x01 && decide (f.a ≤ 0x3F)

/-- R83, RESP: opcode 0x02 with length 1, 2 or 5 and a zero `w`. -/
def OpFields.respForm (f : OpFields) : Bool :=
  f.opc == 0x02 && (f.a == 0x01 || f.a == 0x02 || f.a == 0x05) && f.w == 0

/-- R83, RDBLK: opcode 0x03 with a zero `a`. -/
def OpFields.rdblkForm (f : OpFields) : Bool := f.opc == 0x03 && f.a == 0

/-- R83, RELEASE: opcode 0x04 with zero operands. -/
def OpFields.releaseForm (f : OpFields) : Bool := f.opc == 0x04 && f.a == 0 && f.w == 0

/-- R83, PWRUP: opcode 0x05 with zero operands. -/
def OpFields.pwrupForm (f : OpFields) : Bool := f.opc == 0x05 && f.a == 0 && f.w == 0

/-- "Every OPW that is not one of the forms of rule R83 is illegal" (R86). -/
def OpFields.wellFormed (f : OpFields) : Bool :=
  f.sendForm || f.respForm || f.rdblkForm || f.releaseForm || f.pwrupForm

/-- The fields an operation is written with (R83, R84). -/
def Instr.fields : Instr → OpFields
  | .send idx arg => { opc := 0x01, a := idx.setWidth 8, w := arg }
  | .resp1        => { opc := 0x02, a := 0x01, w := 0 }
  | .resp2        => { opc := 0x02, a := 0x02, w := 0 }
  | .resp5        => { opc := 0x02, a := 0x05, w := 0 }
  | .rdblk addr   => { opc := 0x03, a := 0x00, w := addr }
  | .release      => { opc := 0x04, a := 0x00, w := 0 }
  | .pwrup        => { opc := 0x05, a := 0x00, w := 0 }

/-- A well-formed instruction is one whose fields are a legal form. The operand widths of `Instr` make every term so
(`Laws.EncodingMatchesRow`), the check itself bites on `OpFields`. -/
def Instr.wellFormed (i : Instr) : Bool := i.fields.wellFormed

end Sys2Proof
end

