-- ==== Sys2Proof/Decode.lean ====
section
/-! DEFINITION. The decoder of operation words, the encoder, and the opcode table as data (spec/30_encoding.md R82 to R86;
spec/opcode_table.json). -/

namespace Sys2Proof

/-- Why an OPW is illegal, one name per clause of R86. -/
inductive Reject
  | unknownOpcode     -- "`opc` = 0x00 or 0x06 to 0xFF"
  | sendIndexRange    -- "SEND with `a[7:6] != 0`"
  | respLength        -- "RESP with `a` not in {1, 2, 5}"
  | respOperand       -- RESP with "`w != 0`"
  | rdblkOperand      -- "RDBLK with `a != 0`"
  | releaseOperand    -- RELEASE "with `a != 0` or `w != 0`"
  | pwrupOperand      -- PWRUP "with `a != 0` or `w != 0`"
deriving DecidableEq, Repr

/-- The fields of an OPW (R82): `opc` bits 47:40, `a` bits 39:32, `w` bits 31:0. -/
def OpFields.ofWord (w : OpWord) : OpFields :=
  { opc := w.extractLsb' 40 8, a := w.extractLsb' 32 8, w := w.extractLsb' 0 32 }

/-- The OPW of three fields (R82), `opc` most significant. -/
def OpFields.toWord (f : OpFields) : OpWord := f.opc ++ f.a ++ f.w

/-- Operand decoding (R84) and the refusals of R86, each clause under its own name. -/
def decodeFields (f : OpFields) : Except Reject Instr :=
  if f.opc = 0x01 then
    if f.a.extractLsb' 6 2 = 0 then .ok (.send (f.a.extractLsb' 0 6) f.w) else .error .sendIndexRange
  else if f.opc = 0x02 then
    if f.w ≠ 0 then .error .respOperand
    else if f.a = 0x01 then .ok .resp1
    else if f.a = 0x02 then .ok .resp2
    else if f.a = 0x05 then .ok .resp5
    else .error .respLength
  else if f.opc = 0x03 then
    if f.a = 0 then .ok (.rdblk f.w) else .error .rdblkOperand
  else if f.opc = 0x04 then
    if f.a = 0 ∧ f.w = 0 then .ok .release else .error .releaseOperand
  else if f.opc = 0x05 then
    if f.a = 0 ∧ f.w = 0 then .ok .pwrup else .error .pwrupOperand
  else .error .unknownOpcode

/-- The block's decoder, total on every OPW (R30 step (1), R86). -/
def decodeOpw (w : OpWord) : Except Reject Instr := decodeFields (OpFields.ofWord w)

/-- The OPW of an operation, written from the table of R83. -/
def encode (i : Instr) : OpWord := i.fields.toWord

/-- One row of spec/opcode_table.json: a word belongs to the row when `word &&& mask = value`. -/
structure OpRow where
  mnemonic : String
  mask     : OpWord
  value    : OpWord
deriving DecidableEq, Repr

/-- Whether a word belongs to a row. -/
def OpRow.holds (r : OpRow) (w : OpWord) : Bool := w &&& r.mask == r.value

/-- spec/opcode_table.json, row by row. -/
def opcodeTable : List OpRow :=
  [ ⟨"SEND",    0xFFC000000000#48, 0x010000000000#48⟩,
    ⟨"RESP1",   0xFFFFFFFFFFFF#48, 0x020100000000#48⟩,
    ⟨"RESP2",   0xFFFFFFFFFFFF#48, 0x020200000000#48⟩,
    ⟨"RESP5",   0xFFFFFFFFFFFF#48, 0x020500000000#48⟩,
    ⟨"RDBLK",   0xFFFF00000000#48, 0x030000000000#48⟩,
    ⟨"RELEASE", 0xFFFFFFFFFFFF#48, 0x040000000000#48⟩,
    ⟨"PWRUP",   0xFFFFFFFFFFFF#48, 0x050000000000#48⟩ ]

/-- The name of an operation's row. -/
def Instr.mnemonic : Instr → String
  | .send _ _ => "SEND"
  | .resp1    => "RESP1"
  | .resp2    => "RESP2"
  | .resp5    => "RESP5"
  | .rdblk _  => "RDBLK"
  | .release  => "RELEASE"
  | .pwrup    => "PWRUP"

/-- The OPW whose low `nbits` bits are those of `w`, numbered as spec/opcode_table.json numbers them (bit 0 of the OPW is the
least significant), the bits above being 0 (log 11). -/
def opwOfBits (nbits w : Nat) : OpWord := BitVec.ofNat 48 (w % 2 ^ nbits)

/-- The instruction the decoder reads from an instruction of the table with the bits `w`. -/
def decodeTableWord (nbits w : Nat) : Option Instr :=
  match decodeOpw (opwOfBits nbits w) with
  | .ok i => some i
  | .error _ => none

/-- RESP of a given length (R83). -/
def respOf : RespLen → Instr
  | .one => .resp1
  | .two => .resp2
  | .five => .resp5

/-- `CMD idx, arg, len` (R89): `SEND idx, arg` then `RESP len` then `RELEASE`, as the host presents them. -/
def cmdWords (idx : CmdIdx) (arg : Word) (len : RespLen) : List OpWord :=
  [encode (.send idx arg), encode (respOf len), encode .release]

/-- `ACMD41 arg` (R89): `CMD 55, 0, 1` then `CMD 41, arg, 1`. -/
def acmd41Words (arg : Word) : List OpWord := cmdWords 55 0 .one ++ cmdWords 41 arg .one

end Sys2Proof
end

