-- ==== Sys2Proof/Machine/State.lean ====
section
/-! DEFINITION. The state of the machine, the reasons a step can stop, and the state after reset
(spec/10_state.md R20 to R41; INVENTORY.md, '## State'). -/

namespace Sys2Proof.Machine

/-- The 15 phases (R27). -/
inductive Phase
  | idle
  | cfSel | cfTx
  | rrSkip | rrRest
  | brStatus | brToken | brData | brCrc | brDesel | brTrail
  | rlDesel | rlTrail
  | puDesel | puClk
deriving DecidableEq, Repr

/-- `CUR`, the operation in flight (R21). -/
inductive Cur
  | none
  | send
  | resp
  | rdblk
  | release
  | pwrup
deriving DecidableEq, Repr

/-- `KIND`, the result kinds of the block (R193). -/
inductive Kind
  | ok
  | operationFailed
  | tokenError
  | timeout
  | illegalOp
  | protocolViolation
deriving DecidableEq, Repr

/-- The capacity mode a card was found in (R12, R168). -/
inductive CapacityMode
  | standard
  | highCapacity
deriving DecidableEq, Repr

/-- Card Session State, the host's (R161). -/
inductive Session
  | notInitialized
  | idleConfirmed
  | interfaceConfirmed
  | opCondPending
  | ready (mode : CapacityMode)
deriving DecidableEq, Repr

/-- The commands of the Initialization Sequencer's states (R162), the loop's two commands apart. -/
inductive SeqState
  | reset
  | interfaceCheck
  | capabilitiesProbe
  | opCondPrefix       -- CMD55 of the operating-condition loop
  | opCondQuery        -- CMD41 of the operating-condition loop
  | capacityModeQuery
deriving DecidableEq, Repr

/-- What the host does next inside one `CMD` (R89: `SEND`, `RESP`, `RELEASE`, then the decision on the response). -/
inductive CmdStep
  | send
  | resp
  | release
  | check
deriving DecidableEq, Repr

/-- Where the host program stands (R170, R176). -/
inductive HostProg
  | free                                  -- no host program is running
  | init (st : SeqState) (at_ : CmdStep)  -- `INIT()`, about to do `at_` of the command of `st`
  | readWait                              -- `READ(address)`, its RDBLK issued
deriving DecidableEq, Repr

/-- The results of the host programs `INIT` and `READ` (R194). -/
inductive HostResult
  | ok
  | operationFailed (statusByte : Byte)
  | timeout
  | notIdle
  | unsupportedVoltage
  | checkPatternMismatch
  | notReady
deriving DecidableEq, Repr

/-- What the host's user asks of it: one raw operation word (R88), `INIT()` (R170) or `READ(address)` (R176). -/
inductive HostCall
  | op (w : OpWord)
  | init
  | read (addr : Word)
deriving DecidableEq, Repr

/-- One external call of the block (R10, R60), with the byte an exchange returned. -/
inductive Call
  | select
  | deselect
  | xchg (tx rx : Byte)
  | memWrite (i : Nat) (b : Byte)
deriving DecidableEq, Repr

/-- One event handed to the diagnostic sink (R29). -/
inductive DiagEvent
  | byte (tx rx : Byte)
  | cmd (idx : CmdIdx) (arg : Word)
  | resp (bytes : List Byte)
deriving DecidableEq, Repr

/-- Why a step stops with a fault. -/
inductive Fault
  /-- The phase table (R28) has no row for this state: a counter outside its phase's range, or `CF_TX` ending with `CUR` neither
  SEND nor RDBLK. Raised by the rows of `cfTx`, `rrRest`, `brData`, `brCrc`. Safe: no run reaches such a state (log 13). -/
  | noPhaseRow
deriving DecidableEq, Repr

/-- Why a step is refused. -/
inductive Refusal
  /-- An instruction without a meaning. Raised by no arm: every row of the table has its meaning. Safe. -/
  | notModelled (mnemonic : String)
deriving DecidableEq, Repr

/-- The whole state. Names of the spec in capitals in the comments; INVENTORY.md gives the rule of each. -/
structure State where
  -- the configuration, changed by no step (R8, R32; log 1)
  cfg : Config
  -- the block (R21, R22, R24, R26)
  phase  : Phase
  cur    : Cur
  cnt    : BitVec 10
  poll   : Nat
  cs     : Bool
  idx    : CmdIdx
  arg    : Word
  len    : BitVec 3
  resp   : Vector Byte 5
  rlen   : BitVec 3
  status : Byte
  token  : Byte
  kind   : Kind
  -- its surroundings (R24, R37, R40, R50, R221)
  line : Bool
  buf  : List Host.Cell
  req  : Option OpWord
  rst  : Bool
  -- the host (R161, R170, R176)
  session    : Session
  prog       : HostProg
  iter       : Nat
  hostResult : Option HostResult
  -- the model's own (log 3, 4, 6, 10, 19, 24): the oracle, the free-value counters, the host's notes, the records
  card     : List Byte
  xchgs    : Nat
  bufEpoch : Nat
  respKind : Kind
  calls    : List HostCall
  abandoned : Bool   -- the last operation issued was given up by a reset, its `Complete` is never delivered (R221, R239)
  trace    : List Call
  diag     : List DiagEvent
  results  : List Kind
deriving DecidableEq, Repr

/-- What the host may read of the block while it is idle (R23, R40). -/
structure HostView where
  kind   : Kind
  status : Byte
  token  : Byte
  rlen   : BitVec 3
  resp   : List Byte   -- `RESP[0..RLEN-1]`; the stale bytes above are not given (R229, U14)
  cs     : Bool
deriving DecidableEq, Repr

/-- The machine right after reset (R32 column "reset", R41). `cnt`, `poll`, `idx`, `arg`, `len` and `resp`, which R41 leaves
unspecified, hold zero: DESIGN CHOICE (log 2, unsafe). -/
def State.reset : State :=
  { cfg := Config.reference
    phase := .idle, cur := .none, cnt := 0, poll := 0, cs := false, idx := 0, arg := 0, len := 0
    resp := Vector.replicate 5 0, rlen := 0, status := 0xFF, token := 0xFF, kind := .ok
    line := false, buf := [], req := none, rst := false
    session := .notInitialized, prog := .free, iter := 0, hostResult := none
    card := [], xchgs := 0, bufEpoch := 0, respKind := .ok, calls := [], abandoned := false
    trace := [], diag := [], results := [] }

end Sys2Proof.Machine
end

