-- ==== Sys2Proof/Machine/Flags.lean ====
section
/-! DEFINITION. The conditions the state machines branch on (spec/10_state.md R25; no flag but `cs` is stored, R24), the
chip-select preconditions (R30) and the bound checks (R28). -/

namespace Sys2Proof.Machine

/-- "A byte with bit 7 set is filler" in the wait for a response or status byte (R78, R122, R132). -/
def isFiller (b : Byte) : Bool := b.msb

/-- `rx != 0x00`, an error status (R25, R132). -/
def isErrorStatus (b : Byte) : Bool := b != 0x00

/-- `rx != 0xFF`, a token: only the exact value 0xFF is not-ready (R25, R80, R133). -/
def isToken (b : Byte) : Bool := b != 0xFF

/-- `rx = 0xFE`, the start token (R25, R80, R134). -/
def isStartToken (b : Byte) : Bool := b == 0xFE

/-- The precondition breach of SEND and RDBLK: `cs = 1` (R30, R111). -/
def cycleOpen (s : State) : Bool := s.cs

/-- The precondition breach of RESP: `cs = 0` (R30, R121). -/
def cycleClosed (s : State) : Bool := !s.cs

/-- The timeout check of a polling phase: `poll = POLL_LIMIT`, never with `INF` (R28). -/
def limitReached : Limit → Nat → Bool
  | .inf, _ => false
  | .upTo n, k => k == n

/-- The code of a result kind in `KIND` (R193); 6 to 15 are never produced. -/
def Kind.code : Kind → BitVec 4
  | .ok => 0
  | .operationFailed => 1
  | .tokenError => 2
  | .timeout => 3
  | .illegalOp => 4
  | .protocolViolation => 5

/-- The code of a host program's result (R194). -/
def HostResult.code : HostResult → Nat
  | .ok => 0
  | .operationFailed _ => 1
  | .timeout => 3
  | .notIdle => 8
  | .unsupportedVoltage => 9
  | .checkPatternMismatch => 10
  | .notReady => 11

/-- Whether the session permits single-block reads (R169, R176). -/
def Session.isReady : Session → Bool
  | .ready _ => true
  | _ => false

end Sys2Proof.Machine
end

