-- ==== Sys2Proof/Machine/Checksum.lean ====
section
/-! DEFINITION. The Checksum Generator (spec/40_checksum_generator.md R100 to R106). -/

namespace Sys2Proof.Machine

/-- The first five frame bytes (R72, R73 for `n` = 0 to 4), byte 0 first: the message of the checksum (R101). -/
def frameHead (idx : CmdIdx) (arg : Word) : List Byte :=
  [0x40 ||| idx.setWidth 8, arg.extractLsb' 24 8, arg.extractLsb' 16 8, arg.extractLsb' 8 8, arg.extractLsb' 0 8]

/-- The body of R101's inner loop: feedback `c[6] ^ m[i]`, shift, reduce by 0x09. -/
def crc7Bit (c : Ck) (m : Bool) : Ck := if c.getLsbD 6 ^^ m then (c <<< 1) ^^^ 0x09 else c <<< 1

/-- One byte of the message, "each byte from bit 7 down to bit 0" (R101). -/
def crc7Byte (c : Ck) (m : Byte) : Ck := [7, 6, 5, 4, 3, 2, 1, 0].foldl (fun c i => crc7Bit c (m.getLsbD i)) c

/-- CRC-7 of a message "starting from the register value 0, with no reflection and no final exclusive-or" (R101). -/
def crc7 (message : List Byte) : Ck := message.foldl crc7Byte 0

/-- `Ck7(idx, arg)` (R100): R101 under `CRC7`, R103 under `TABLE`, keyed on index and argument. -/
def ck7 (mode : CksumMode) (idx : CmdIdx) (arg : Word) : Ck :=
  match mode with
  | .crc7 => crc7 (frameHead idx arg)
  | .table placeholder =>
    if idx = 0 ∧ arg = 0 then 0x4A else if idx = 8 ∧ arg = 0x1AA then 0x43 else placeholder

end Sys2Proof.Machine
end

