-- ==== Sys2Proof/Machine/Operands.lean ====
section
/-! DEFINITION. The operand forms: the fixed bytes and counts of spec/00_scope.md R8, the command frame of
spec/30_encoding.md R70 to R73, the response lengths (R84) and the decoding of an operation's `CUR` (R30). -/

namespace Sys2Proof.Machine

/-- `FILL`, transmitted on every exchange that is not a frame byte (R8, D6). -/
def fill : Byte := 0xFF

/-- The index of read-single-block, "fixed in the hardware" (R8 `READ_BLOCK_IDX`, R84). -/
def readBlockIdx : CmdIdx := 17

/-- Payload bytes of one block (R8 `BLOCK_LEN`). -/
def blockLen : Nat := 512

/-- `FrameByte(idx, arg, n)` (R73), defined for `n` = 0 to 5. -/
def frameByte (mode : CksumMode) (idx : CmdIdx) (arg : Word) (n : Nat) : Option Byte :=
  (frameHead idx arg ++ [((ck7 mode idx arg).setWidth 8 <<< 1) ||| 1])[n]?

/-- The six bytes of a command frame (R70, R72), byte 0 first. -/
def frame (mode : CksumMode) (idx : CmdIdx) (arg : Word) : List Byte :=
  frameHead idx arg ++ [((ck7 mode idx arg).setWidth 8 <<< 1) ||| 1]

/-- The length a RESP asks for (R84: `len = a[2:0]`). -/
def lenOf : RespLen → BitVec 3
  | .one => 1
  | .two => 2
  | .five => 5

/-- The value `CUR` takes when an operation is accepted (R30). -/
def curOf : Instr → Cur
  | .send _ _ => .send
  | .resp1 | .resp2 | .resp5 => .resp
  | .rdblk _ => .rdblk
  | .release => .release
  | .pwrup => .pwrup

end Sys2Proof.Machine
end

