-- ==== Sys2Proof/Machine/Ops.lean ====
section
/-! DEFINITION. The shared operations: the Block Buffer, the calls of the external collaborators
(spec/00_scope.md R10; spec/10_state.md R36 to R39), acceptance and completion (R30, R31), the block's reset
(spec/70_reset_and_hazards.md R221) and what the host may read (R23, R51). -/

namespace Sys2Proof.Machine

/-- The outcome of a step. -/
abbrev Result := Host.Outcome State Fault Refusal

/-! ### The Block Buffer -/

/-- The byte defined at an index of the buffer; an unlisted index has no defined byte (log 4). -/
def Memory.read (a : Nat) : List Host.Cell → Option Byte
  | [] => none
  | (a', b) :: rest => if a = a' then some b else Memory.read a rest

/-- Store one byte, keeping the indices strictly rising. -/
def Memory.write (a : Nat) (b : Byte) : List Host.Cell → List Host.Cell
  | [] => [(a, b)]
  | (a', b') :: rest =>
    if a < a' then (a, b) :: (a', b') :: rest
    else if a = a' then (a, b) :: rest
    else (a', b') :: Memory.write a b rest

/-- The canonical form of the buffer: indices strictly rising and inside the 512 bytes of `BUF` (R50). An unlisted index
reads as no defined byte, which no entry equals. -/
abbrev Memory.wf (m : List Host.Cell) : Prop :=
  m.Pairwise (fun x y => x.1 < y.1) ∧ ∀ c ∈ m, c.1 < blockLen

/-! ### The external calls -/

/-- The byte the card answers to the `n`-th exchange from now: the script, then free values (R20, R34, U20; log 3). -/
def State.rx (s : State) (n : Nat) : Byte := s.card.getD n (Config.cardByte (s.xchgs + n))

/-- `Xchg(tx)` (R36): the card answers `s.rx 0` and its stream advances (R58); followed by `Diag(DiagByte(tx, rx))` (R29). -/
def xchg (tx : Byte) (s : State) : State :=
  { s with
    card := s.card.tail
    xchgs := s.xchgs + 1
    trace := .xchg tx (s.rx 0) :: s.trace
    diag := .byte tx (s.rx 0) :: s.diag }

/-- `Select()` with `cs <- 1` (R24, R37); the settling delay is inside the call and takes no model time (log 20). -/
def select (s : State) : State := { s with cs := true, line := true, trace := .select :: s.trace }

/-- `Deselect()` with `cs <- 0` (R24, R37). -/
def deselect (s : State) : State := { s with cs := false, line := false, trace := .deselect :: s.trace }

/-- `MemWrite(i, 1, b)` (R10, R51). -/
def memWrite (i : Nat) (b : Byte) (s : State) : State :=
  { s with buf := Memory.write i b s.buf, trace := .memWrite i b :: s.trace }

/-- "Every byte of `BUF` a free draw" (R52, U1): nothing is defined any more and a new epoch of free bytes begins (log 4). -/
def bufUndefined (s : State) : State := { s with buf := [], bufEpoch := s.bufEpoch + 1 }

/-! ### Acceptance and completion -/

/-- `Complete(k)` (R31): the only way out of an operation. Its result is delivered, so no abandoned operation is the last (R239). -/
def complete (k : Kind) (s : State) : State :=
  { s with kind := k, cur := .none, phase := .idle, results := k :: s.results, abandoned := false }

/-- `Complete(k)` of a RESP, with `Diag(DiagResp(RESP[0..RLEN-1]))` (R29). -/
def completeResp (k : Kind) (s : State) : State :=
  complete k { s with diag := .resp (s.resp.toList.take s.rlen.toNat) :: s.diag }

/-- `raise k` at acceptance (R30): `KIND <- k`, presented to the host as the operation's completion (R10); nothing else changes. -/
def raise (k : Kind) (s : State) : State := { s with kind := k, results := k :: s.results, abandoned := false }

/-- Steps (2) and (3) of acceptance (R30), shared by every operation: a breach of the chip-select precondition raises
`ProtocolViolation`, otherwise the operands are latched. Acceptance is "the step of `phase = IDLE`"; in any other phase the
request "waits and is not sampled" (R40; log 8). -/
def accept (breach : Bool) (latched s : State) : Result :=
  if s.phase ≠ .idle then .next s
  else if breach then .next (raise .protocolViolation s)
  else .next latched

/-! ### The block's reset -/

/-- The block's reset (R221, R41): an operation in flight is abandoned "without completing it", the line goes to its
deasserted level with no external call, and the state elements take the values of `State.reset` (log 2). `BUF` is not reset;
if a read was in flight its contents are undefined (R229; log 5). -/
def blockReset (s : State) : State :=
  let s := if s.cur = .rdblk then bufUndefined s else s
  { s with
    phase := State.reset.phase, cur := State.reset.cur, cnt := State.reset.cnt, poll := State.reset.poll
    cs := State.reset.cs, line := State.reset.line
    idx := State.reset.idx, arg := State.reset.arg, len := State.reset.len
    resp := State.reset.resp, rlen := State.reset.rlen
    status := State.reset.status, token := State.reset.token, kind := State.reset.kind }

/-- What a step does while the reset input is asserted: the block's reset, and the host's duty after it (R221: "the host's
`session` must be set to `NotInitialized` by the host"), its program and request withdrawn (log 12). An operation in flight or
waiting at the port is never completed, which `abandoned` keeps (R221 "no `Complete`, no result"; R239; log 24). An `INIT` or `READ`
cut off here returns nothing: `hostResult`, `iter` and `respKind` keep their values, DESIGN CHOICE (log 25, unsafe). -/
def resetStep (s : State) : State :=
  { blockReset s with
    rst := false, session := .notInitialized, prog := .free, req := none
    abandoned := s.abandoned || decide (s.phase ≠ .idle) || s.req.isSome }

/-! ### The request port and what the host reads -/

/-- The request is sampled once, at acceptance (R40, R62). -/
def takeReq (s : State) : State := { s with req := none }

/-- The result registers as the host may read them, only in `phase = IDLE` (R23, R40); stale response bytes are not given
(R229, U14). -/
def hostView (s : State) : Option HostView :=
  if s.phase = .idle then
    some { kind := s.kind, status := s.status, token := s.token, rlen := s.rlen
           resp := s.resp.toList.take s.rlen.toNat, cs := s.cs }
  else none

/-- `MemRead(i, 1)` by the host, only while the block is idle and inside the 512 bytes (R10, R51); an undefined byte reads as a
free value (R52; log 4). -/
def hostMemRead (i : Nat) (s : State) : Option Byte :=
  if s.phase = .idle ∧ i < blockLen then some ((Memory.read i s.buf).getD (Config.bufByte s.bufEpoch i)) else none

end Sys2Proof.Machine
end

