-- ==== Sys2Proof/Machine/BlockReader.lean ====
section
/-! DEFINITION. The Block Reader: RDBLK and the phases BR_STATUS to BR_TRAIL (spec/43_block_reader.md R130 to R143;
spec/10_state.md R28). Its step 1 is the Command Framer's (R131). -/

namespace Sys2Proof.Machine

/-- RDBLK addr, accepted (R30, R130): legal only with `cs = 0`; the frame is command 17 with the address unchanged (R53, R131). -/
def execRdblk (addr : Word) (s : State) : Result :=
  accept (cycleOpen s)
    { s with cur := .rdblk, idx := readBlockIdx, arg := addr, status := 0xFF, token := 0xFF, phase := .cfSel } s

/-- Rows `BR_STATUS` of R28 (step 2, R132, R140). -/
def brStatus (s : State) : Result :=
  if limitReached s.cfg.pollLimit s.poll then .next { s with kind := .timeout, phase := .brDesel }
  else
    let b := s.rx 0
    let t := { xchg fill s with poll := s.poll + 1 }
    if isFiller b then .next t
    else
      let t := { t with status := b }
      if isErrorStatus b then .next { t with kind := .operationFailed, phase := .brDesel }
      else .next { t with poll := 0, phase := .brToken }

/-- Rows `BR_TOKEN` of R28 (step 3, R133, R134, R137, R140). -/
def brToken (s : State) : Result :=
  if limitReached s.cfg.pollLimit s.poll then .next { s with kind := .timeout, phase := .brDesel }
  else
    let b := s.rx 0
    let t := { xchg fill s with poll := s.poll + 1 }
    if isToken b then
      let t := { t with token := b }
      if isStartToken b then .next { t with cnt := 0, phase := .brData }
      else .next { t with kind := .tokenError, phase := .brDesel }
    else .next t

/-- Row `BR_DATA` of R28 (step 4, R135): one payload byte into `BUF[cnt]`. -/
def brData (s : State) : Result :=
  if s.cnt.toNat < blockLen then
    let t := memWrite s.cnt.toNat (s.rx 0) (xchg fill s)
    if s.cnt = 511 then .next { t with cnt := 0, phase := .brCrc } else .next { t with cnt := s.cnt + 1 }
  else .fault .noPhaseRow

/-- Row `BR_CRC` of R28 (step 4, R136): two exchanges, both bytes discarded. -/
def brCrc (s : State) : Result :=
  let t := xchg fill s
  if s.cnt = 0 then .next { t with cnt := 1 }
  else if s.cnt = 1 then .next { t with kind := .ok, phase := .brDesel }
  else .fault .noPhaseRow

/-- Row `BR_DESEL` of R28 (step 5, R138). -/
def brDesel (s : State) : Result := .next { deselect s with phase := .brTrail }

/-- Row `BR_TRAIL` of R28 (step 5, R138): the trailing exchange, then `Complete(KIND)` with "the kind set on the way here". On a
kind other than `Ok` the buffer is undefined from here on (R52, R141; log 5). -/
def brTrail (s : State) : Result :=
  let t := complete s.kind (xchg fill s)
  if s.kind = .ok then .next t else .next (bufUndefined t)

end Sys2Proof.Machine
end

