-- ==== Sys2Proof/Machine/BusControl.lean ====
section
/-! DEFINITION. The bus-control operations RELEASE and PWRUP and their phases (spec/44_bus_control_ops.md R150 to R154;
spec/10_state.md R28). -/

namespace Sys2Proof.Machine

/-- RELEASE, accepted (R30, R150): "no chip-select precondition". -/
def execRelease (s : State) : Result := accept false { s with cur := .release, phase := .rlDesel } s

/-- PWRUP, accepted (R30, R152): "no chip-select precondition". -/
def execPwrup (s : State) : Result := accept false { s with cur := .pwrup, phase := .puDesel } s

/-- Row `RL_DESEL` of R28. -/
def rlDesel (s : State) : Result := .next { deselect s with phase := .rlTrail }

/-- Row `RL_TRAIL` of R28: one trailing exchange, its byte discarded. -/
def rlTrail (s : State) : Result := .next (complete .ok (xchg fill s))

/-- Row `PU_DESEL` of R28. -/
def puDesel (s : State) : Result := .next { deselect s with cnt := 0, phase := .puClk }

/-- Row `PU_CLK` of R28: `POWERUP_EXCHANGES` exchanges, their bytes discarded. -/
def puClk (s : State) : Result :=
  let t := xchg fill s
  if s.cnt.toNat = s.cfg.powerupExchanges - 1 then .next (complete .ok t) else .next { t with cnt := s.cnt + 1 }

end Sys2Proof.Machine
end

