-- ==== Sys2Proof/Machine/Framer.lean ====
section
/-! DEFINITION. The Command Framer: SEND and the phases CF_SEL, CF_TX (spec/41_command_framer.md R110 to R114;
spec/10_state.md R28). -/

namespace Sys2Proof.Machine

/-- SEND idx, arg, accepted (R30, R110): legal only with `cs = 0` (R111). Its frame goes out in `cfSel` and `cfTx`. -/
def execSend (idx : CmdIdx) (arg : Word) (s : State) : Result :=
  accept (cycleOpen s) { s with cur := .send, idx := idx, arg := arg, phase := .cfSel } s

/-- Row `CF_SEL` of R28. -/
def cfSel (s : State) : Result := .next { select s with cnt := 0, phase := .cfTx }

/-- Row `CF_TX` of R28: one frame byte, the returned byte discarded (R112); after byte 5 `DiagCmd` (R29) and, by `CUR`, completion
(SEND) or the status wait (RDBLK). -/
def cfTx (s : State) : Result :=
  match frameByte s.cfg.cksumMode s.idx s.arg s.cnt.toNat with
  | none => .fault .noPhaseRow
  | some tx =>
    let t := xchg tx s
    if s.cnt.toNat < 5 then .next { t with cnt := s.cnt + 1 }
    else
      let t := { t with diag := .cmd s.idx s.arg :: t.diag }
      if s.cur = .send then .next (complete .ok t)
      else if s.cur = .rdblk then .next { t with poll := 0, phase := .brStatus }
      else .fault .noPhaseRow

end Sys2Proof.Machine
end

