-- ==== Sys2Proof/Machine/Reader.lean ====
section
/-! DEFINITION. The Response Reader: RESP and the phases RR_SKIP, RR_REST (spec/42_response_reader.md R120 to R126;
spec/10_state.md R28). -/

namespace Sys2Proof.Machine

/-- RESP len, accepted (R30, R120): legal only with `cs = 1` (R121). -/
def acceptResp (len : RespLen) (s : State) : Result :=
  accept (cycleClosed s) { s with cur := .resp, len := lenOf len, rlen := 0, poll := 0, phase := .rrSkip } s

/-- RESP 1 (R120). -/
def execResp1 (s : State) : Result := acceptResp .one s

/-- RESP 2 (R120). -/
def execResp2 (s : State) : Result := acceptResp .two s

/-- RESP 5 (R120). -/
def execResp5 (s : State) : Result := acceptResp .five s

/-- Rows `RR_SKIP` of R28 (R122, R124): the timeout check first, then one exchange that drops filler or captures byte 0. -/
def rrSkip (s : State) : Result :=
  if limitReached s.cfg.pollLimit s.poll then .next (completeResp .timeout s)
  else
    let b := s.rx 0
    let t := { xchg fill s with poll := s.poll + 1 }
    if isFiller b then .next t
    else
      let t := { t with resp := t.resp.set 0 b, rlen := 1 }
      if s.len = 1 then .next (completeResp .ok t) else .next { t with cnt := 1, phase := .rrRest }

/-- Row `RR_REST` of R28 (R123): one byte, unfiltered; the last one completes. -/
def rrRest (s : State) : Result :=
  if h : s.cnt.toNat < 5 then
    let t := { xchg fill s with resp := s.resp.set s.cnt.toNat (s.rx 0) h, rlen := BitVec.ofNat 3 (s.cnt.toNat + 1) }
    if s.cnt.toNat + 1 = s.len.toNat then .next (completeResp .ok t) else .next { t with cnt := s.cnt + 1 }
  else .fault .noPhaseRow

end Sys2Proof.Machine
end

