-- ==== Sys2Proof/Machine/Dispatch.lean ====
section
/-! DEFINITION. One arm per instruction: the meaning of an operation presented to the block (spec/10_state.md R30). -/

namespace Sys2Proof.Machine

-- The acceptance of each operation, its chip-select precondition, its latches and its first phase (R30, R83).
def exec (i : Instr) (s : State) : Host.Outcome State Fault Refusal :=
  match i with
  | .send idx arg => Sys2Proof.Machine.execSend idx arg s
  | .resp1 => Sys2Proof.Machine.execResp1 s
  | .resp2 => Sys2Proof.Machine.execResp2 s
  | .resp5 => Sys2Proof.Machine.execResp5 s
  | .rdblk addr => Sys2Proof.Machine.execRdblk addr s
  | .release => Sys2Proof.Machine.execRelease s
  | .pwrup => Sys2Proof.Machine.execPwrup s

end Sys2Proof.Machine
end

