-- ==== Sys2Proof/Machine/Phases.lean ====
section
/-! DEFINITION. The phase table (spec/10_state.md R28): which row a step of a running operation is. -/

namespace Sys2Proof.Machine

/-- One step of the block for `phase != IDLE` is the row of its phase (R28); `IDLE` has no row, its step is acceptance (R30). -/
def phaseStep (s : State) : Result :=
  match s.phase with
  | .idle     => .next s
  | .cfSel    => cfSel s
  | .cfTx     => cfTx s
  | .rrSkip   => rrSkip s
  | .rrRest   => rrRest s
  | .brStatus => brStatus s
  | .brToken  => brToken s
  | .brData   => brData s
  | .brCrc    => brCrc s
  | .brDesel  => brDesel s
  | .brTrail  => brTrail s
  | .rlDesel  => rlDesel s
  | .rlTrail  => rlTrail s
  | .puDesel  => puDesel s
  | .puClk    => puClk s

end Sys2Proof.Machine
end

