-- ==== Sys2Proof/Machine/Sequencer.lean ====
section
/-! DEFINITION. The host: the Initialization Sequencer `INIT` and the program `READ` as an agent beside the block
(spec/45_init_sequencer.md R160 to R178). It moves only while the block is idle and no request is presented (R160); one of
its steps either presents one operation or takes one decision (log 9). -/

namespace Sys2Proof.Machine

/-- The command of each state: index, argument, response length (R162, R164 to R168). -/
def seqCommand (hcsArg : Word) : SeqState → CmdIdx × Word × RespLen
  | .reset             => (0, 0, .one)
  | .interfaceCheck    => (8, 0x1AA, .five)
  | .capabilitiesProbe => (58, 0, .five)
  | .opCondPrefix      => (55, 0, .one)
  | .opCondQuery       => (41, hcsArg, .one)
  | .capacityModeQuery => (58, 0, .five)

/-- The host presents an operation and waits for it (R160, R40). -/
def present (i : Instr) (next : HostProg) (s : State) : State := { s with req := some (encode i), prog := next }

/-- `INIT()` begins (R170): `session <- NotInitialized`, then PWRUP (R163), then the state Reset. -/
def initStart (s : State) : State :=
  present .pwrup (.init .reset .send) { s with session := .notInitialized, iter := 0 }

/-- `fail(k)` (R170, R172): "sets `session <- NotInitialized` and returns `k` to the caller". -/
def initFail (r : HostResult) (s : State) : State :=
  { s with session := .notInitialized, prog := .free, hostResult := some r }

/-- The state machine goes on to another state (R162). -/
def initGo (st : SeqState) (session : Session) (s : State) : State :=
  { s with session := session, prog := .init st .send }

/-- `INIT` returns `Ok` with the session Ready (R168 to R170). -/
def initDone (mode : CapacityMode) (s : State) : State :=
  { s with session := .ready mode, prog := .free, hostResult := some .ok }

/-- The decision on a response, by state (R164 to R168), after `chk` (R175): a RESP that timed out fails the attempt. -/
def initCheck (st : SeqState) (s : State) : State :=
  if s.respKind = .timeout then initFail .timeout s
  else
    match st with
    | .reset => if s.resp[0] ≠ 0x01 then initFail .notIdle s else initGo .interfaceCheck .idleConfirmed s
    | .interfaceCheck =>
      if s.resp[0] ≠ 0x01 then initFail .notIdle s
      else if s.resp[3].extractLsb' 0 4 ≠ 0x1 then initFail .unsupportedVoltage s
      else if s.resp[4] ≠ 0xAA then initFail .checkPatternMismatch s
      else initGo .capabilitiesProbe .interfaceConfirmed s
    | .capabilitiesProbe => initGo .opCondPrefix .opCondPending { s with iter := 0 }
    | .opCondPrefix => initGo .opCondQuery s.session s
    | .opCondQuery =>
      let t := { s with iter := s.iter + 1 }
      if s.resp[0].getLsbD 0 then initGo .opCondPrefix s.session t else initGo .capacityModeQuery s.session t
    | .capacityModeQuery => initDone (if s.resp[1].getLsbD 6 then .highCapacity else .standard) s

/-- One host step inside `INIT` (R170): the operations of `CMD idx, arg, len` in turn (R89), then the decision. The loop's bound is
tested before CMD55 (R170, R173). -/
def initStep (st : SeqState) (at_ : CmdStep) (s : State) : State :=
  match at_ with
  | .send =>
    if st = .opCondPrefix ∧ limitReached s.cfg.opcondLimit s.iter then initFail .timeout s
    else
      let c := seqCommand s.cfg.hcsArg st
      present (.send c.1 c.2.1) (.init st .resp) s
  | .resp    => present (respOf (seqCommand s.cfg.hcsArg st).2.2) (.init st .release) s
  | .release => present .release (.init st .check) { s with respKind := s.kind }
  | .check   => initCheck st s

/-- `READ(address)` (R176): refused with `NotReady` "without issuing any operation" unless the session is Ready; otherwise RDBLK with
the address unchanged (R177). -/
def readStart (addr : Word) (s : State) : State :=
  if s.session.isReady then present (.rdblk addr) .readWait s else { s with hostResult := some .notReady }

/-- `READ` returns: "a non-zero status is `OperationFailed(statusByte)`", zero is success (R176; log 16). -/
def readFinish (s : State) : State :=
  { s with
    prog := .free
    hostResult := some (if s.status = 0x00 then .ok else .operationFailed s.status) }

/-- The host's user makes the next call (R88, R170, R176); with none left the host does nothing (R222, R239). -/
def takeCall (s : State) : State :=
  match s.calls with
  | [] => s
  | .op w :: rest => { s with calls := rest, req := some w }
  | .init :: rest => initStart { s with calls := rest }
  | .read addr :: rest => readStart addr { s with calls := rest }

/-- One step of the host (R160). -/
def hostStep (s : State) : State :=
  match s.prog with
  | .free => takeCall s
  | .init st at_ => initStep st at_ s
  | .readWait => readFinish s

end Sys2Proof.Machine
end

