-- ==== Sys2Proof/Machine/Fetch.lean ====
section
/-! DEFINITION. What the step function calls: the sampling of the request port and the order in which the agents move
(spec/10_state.md R30, R40; spec/45_init_sequencer.md R160). -/

namespace Sys2Proof.Machine

/-- The acceptance step on a presented OPW (R30): decode first, `IllegalOp` for an illegal word, else the operation's own
acceptance. The request is taken from the port either way (R40). -/
def acceptWord (w : OpWord) (s : State) : Result :=
  match decodeOpw w with
  | .ok i => exec i (takeReq s)
  | .error _ => .next (raise .illegalOp (takeReq s))

/-- A step of an idle block: it accepts what is presented (R30); with nothing presented it "does nothing until the host presents
an OPW" (R222), and the host moves. -/
def idleStep (s : State) : Result :=
  match s.req with
  | some w => acceptWord w s
  | none => .next (hostStep s)

/-- Place an OPW at the request port of an idle block, so that the next step accepts it. -/
def loadRequest (w : OpWord) (s : State) : State :=
  { s with
    rst := false
    phase := .idle
    cur := if s.phase = .idle then s.cur else .none
    req := some w }

end Sys2Proof.Machine
end

