-- ==== Sys2Proof/Machine/Step.lean ====
section
/-! DEFINITION. One step of the machine (spec/00_scope.md R11: at most one external call of the block). -/

namespace Sys2Proof.Machine

/-- The reset input first (R221); a running operation takes its row of the phase table (R28); an idle block accepts a request, or
the host moves (R30, R160). -/
def step (s : State) : Host.Outcome State Fault Refusal :=
  if s.rst then .next (resetStep s)
  else if s.phase = .idle then idleStep s
  else phaseStep s

/-- The state with an instruction where the next step takes it: at the request port of an idle block (R40; log 10). There is no
program counter and no fetch (R26); an operation in flight is taken away, since a busy block samples no request. -/
def State.withFetchWord (s : State) (nbits w : Nat) : State := loadRequest (opwOfBits nbits w) s

end Sys2Proof.Machine
end

