-- ==== Sys2Proof/Safety.lean ====
section
/-! DEFINITION. What claims are stated in: runs, the bytes and calls of a run, the invariant of the block (spec/10_state.md
R24 to R32), the invariant of the host program (spec/45_init_sequencer.md R161 to R175), and the end of a run
(spec/70_reset_and_hazards.md R239). -/

namespace Sys2Proof.Machine

/-! ### Runs -/

/-- `n` steps, stopping at a fault or a refusal. -/
def run : Nat → State → Result
  | 0, s => .next s
  | n + 1, s =>
    match step s with
    | .next t => run n t
    | .fault f => .fault f
    | .refused r => .refused r

/-- The calls of successive exchanges that transmit `txs`, the first of them the `n`-th exchange from `s`; in order. -/
def exchanges (s : State) (n : Nat) (txs : List Byte) : List Call := txs.mapIdx fun j tx => .xchg tx (s.rx (n + j))

/-- Their `DiagByte` events (R29), in order. -/
def diagBytes (s : State) (n : Nat) (txs : List Byte) : List DiagEvent := txs.mapIdx fun j tx => .byte tx (s.rx (n + j))

/-- The calls of a payload (R135, R60): each exchange followed by the store of its byte; in order. -/
def payloadCalls (s : State) (n : Nat) : List Call :=
  (List.range blockLen).flatMap fun i => [.xchg fill (s.rx (n + i)), .memWrite i (s.rx (n + i))]

/-- The first `k` bytes the card answers from exchange `n` on are all filler in the sense of R78 (bit 7 set). -/
def AllFiller (s : State) (n k : Nat) : Prop := ∀ j < k, isFiller (s.rx (n + j)) = true

/-- The first `k` bytes the card answers from exchange `n` on are all the not-ready value 0xFF (R80). -/
def AllNotReady (s : State) (n k : Nat) : Prop := ∀ j < k, s.rx (n + j) = 0xFF

/-- A poll loop that finds its byte after `k` filler bytes stays within the bound (R28: the check fires at `POLL_LIMIT`). -/
def withinLimit : Limit → Nat → Prop
  | .inf, _ => True
  | .upTo n, k => k < n

/-! ### The invariant of the block -/

/-- "`poll` never exceeds `POLL_LIMIT`" (R26). -/
def pollInRange : Limit → Nat → Prop
  | .inf, _ => True
  | .upTo n, k => k ≤ n

/-- The bytes of the buffer below index `n` are defined. -/
def bufDefinedBelow (n : Nat) (s : State) : Prop := ∀ i < n, (Memory.read i s.buf).isSome = true

/-- A RESP in flight with a legal length (R21, R32). -/
def respRunning (s : State) : Prop := s.cur = .resp ∧ s.cs = true ∧ (s.len = 1 ∨ s.len = 2 ∨ s.len = 5)

/-- An RDBLK whose status and token registers have not been written since its acceptance (R22, R30). -/
def rdblkFresh (s : State) : Prop := s.cur = .rdblk ∧ s.idx = readBlockIdx ∧ s.status = 0xFF ∧ s.token = 0xFF

/-- The rows of R139 past acceptance: which `STATUS` and `TOKEN` go with which kind, and that `Ok` comes with a whole block. -/
def rdblkOutcome (k : Kind) (s : State) : Prop :=
  match k with
  | .ok => s.status = 0x00 ∧ s.token = 0xFE ∧ bufDefinedBelow blockLen s
  | .operationFailed => s.status ≠ 0x00 ∧ s.status.msb = false ∧ s.token = 0xFF
  | .tokenError => s.status = 0x00 ∧ s.token ≠ 0xFE ∧ s.token ≠ 0xFF
  | .timeout => (s.status = 0xFF ∨ s.status = 0x00) ∧ s.token = 0xFF
  | .illegalOp => False
  | .protocolViolation => False

/-- What holds in each phase: the operation in flight, `cs`, the range of `cnt`, and the result registers so far (R21, R24, R26
to R28, R32). -/
def phaseFits (s : State) : Prop :=
  match s.phase with
  | .idle     => s.cur = .none
  | .cfSel    => (s.cur = .send ∨ rdblkFresh s) ∧ s.cs = false
  | .cfTx     => (s.cur = .send ∨ rdblkFresh s) ∧ s.cs = true ∧ s.cnt.toNat ≤ 5
  | .rrSkip   => respRunning s ∧ s.rlen = 0
  | .rrRest   => respRunning s ∧ 1 ≤ s.cnt.toNat ∧ s.cnt.toNat < s.len.toNat ∧ s.rlen.toNat = s.cnt.toNat
  | .brStatus => rdblkFresh s ∧ s.cs = true
  | .brToken  => s.cur = .rdblk ∧ s.cs = true ∧ s.status = 0x00 ∧ s.token = 0xFF
  | .brData   => s.cur = .rdblk ∧ s.cs = true ∧ s.status = 0x00 ∧ s.token = 0xFE ∧ bufDefinedBelow s.cnt.toNat s
  | .brCrc    =>
    s.cur = .rdblk ∧ s.cs = true ∧ s.status = 0x00 ∧ s.token = 0xFE ∧ s.cnt.toNat ≤ 1 ∧ bufDefinedBelow blockLen s
  | .brDesel  => s.cur = .rdblk ∧ s.cs = true ∧ rdblkOutcome s.kind s
  | .brTrail  => s.cur = .rdblk ∧ s.cs = false ∧ rdblkOutcome s.kind s
  | .rlDesel  => s.cur = .release
  | .rlTrail  => s.cur = .release ∧ s.cs = false
  | .puDesel  => s.cur = .pwrup
  | .puClk    => s.cur = .pwrup ∧ s.cs = false ∧ s.cnt.toNat < s.cfg.powerupExchanges

/-- The invariant of the block: every state a run reaches has it. -/
structure Inv (s : State) : Prop where
  cfgWf     : s.cfg.wf = true
  lineIsCs  : s.line = s.cs
  cntRange  : s.cnt.toNat ≤ 511
  pollRange : pollInRange s.cfg.pollLimit s.poll
  rlenRange : s.rlen.toNat ≤ 5
  bufWf     : Memory.wf s.buf
  fits      : phaseFits s

/-! ### The invariant of the host program -/

/-- Where an operation the host presented stands: waiting at the port of an idle block, running, or completed. -/
inductive Stage
  | waiting
  | running
  | completed
deriving DecidableEq, Repr

/-- The operation `i`, presented by the host, is at a stage. -/
def atStage (i : Instr) (s : State) : Stage → Prop
  | .waiting => s.req = some (encode i) ∧ s.phase = .idle
  | .running => s.req = none ∧ s.phase ≠ .idle ∧ s.cur = curOf i
  | .completed => s.req = none ∧ s.phase = .idle

/-- The session the sequencer holds while it works on a state (R164 to R168). -/
def sessionIn : SeqState → Session
  | .reset             => .notInitialized
  | .interfaceCheck    => .idleConfirmed
  | .capabilitiesProbe => .interfaceConfirmed
  | .opCondPrefix      => .opCondPending
  | .opCondQuery       => .opCondPending
  | .capacityModeQuery => .opCondPending

/-- How the operation before each host step of `INIT` stands, and what `cs` and `KIND` are at that stage: every SEND meets `cs = 0`,
every RESP `cs = 1`, and no operation ends in `IllegalOp` or `ProtocolViolation` (R175). -/
def initFits (st : SeqState) (s : State) : CmdStep → Prop
  | .send =>
    (st = .reset ∧ (atStage .pwrup s .waiting ∨ atStage .pwrup s .running)) ∨ (atStage .pwrup s .completed ∧ s.cs = false)
  | .resp =>
    let i := Instr.send (seqCommand s.cfg.hcsArg st).1 (seqCommand s.cfg.hcsArg st).2.1
    (atStage i s .waiting ∧ s.cs = false) ∨ atStage i s .running ∨ (atStage i s .completed ∧ s.cs = true ∧ s.kind = .ok)
  | .release =>
    let i := respOf (seqCommand s.cfg.hcsArg st).2.2
    (atStage i s .waiting ∧ s.cs = true) ∨ (atStage i s .running ∧ s.cs = true) ∨
      (atStage i s .completed ∧ s.cs = true ∧ (s.kind = .ok ∨ s.kind = .timeout))
  | .check =>
    (s.respKind = .ok ∨ s.respKind = .timeout) ∧
      (atStage .release s .waiting ∨ atStage .release s .running ∨ (atStage .release s .completed ∧ s.cs = false ∧ s.kind = .ok))

/-- The invariant of the host program: the session goes with the state the sequencer is in (R161 to R169), its operations keep the
bus discipline (R175), and a READ runs only in a Ready session (R176). -/
def HostInv (s : State) : Prop :=
  match s.prog with
  | .free => s.session = .notInitialized ∨ s.session.isReady = true
  | .init st at_ => s.session = sessionIn st ∧ initFits st s at_
  | .readWait => s.session.isReady = true

/-! ### The end of a run -/

/-- A run "is over when the host has issued the last one and the block has completed it, that is `phase = IDLE` with the last
`Complete(kind)` delivered" (R239): an operation that a reset abandoned was never completed. -/
def RunOver (s : State) : Prop :=
  s.rst = false ∧ s.phase = .idle ∧ s.req = none ∧ s.prog = .free ∧ s.calls = [] ∧ s.abandoned = false

/-- "A run that is over is well-formed if also `cs = 0`" (R239). -/
def RunWellFormed (s : State) : Prop := RunOver s ∧ s.cs = false

end Sys2Proof.Machine
end

