-- ==== Sys2Proof/Certificates/Slice0/Obligations.lean ====
section
/-! DEFINITION. The statements for the provers. Each docstring names the rule of spec/ it formalises. -/

open Sys2Proof Sys2Proof.Machine

/-! ### Encoding -/

/-- R83, R84: decoding and encoding are inverse, on every word and every operation with every operand. -/
def Obligations.DecodeInvertsEncode : Prop := ∀ (w : OpWord) (i : Instr), decodeOpw w = .ok i ↔ w = encode i

/-- R86, R30 (1): the illegal words are exactly the listed ones, and presenting one writes `KIND` and nothing else, whatever `cs`
is; every other word is an operation. -/
def Obligations.IllegalWordRaisesIllegalOp : Prop :=
  ∀ (w : OpWord) (s : State), s.rst = false → s.phase = .idle → s.req = some w →
    let opc := w.extractLsb' 40 8
    let a := w.extractLsb' 32 8
    let x := w.extractLsb' 0 32
    let illegal :=
      opc = 0x00 ∨ 0x06 ≤ opc ∨ (opc = 0x01 ∧ a.extractLsb' 6 2 ≠ 0) ∨
        (opc = 0x02 ∧ (¬ (a = 1 ∨ a = 2 ∨ a = 5) ∨ x ≠ 0)) ∨ (opc = 0x03 ∧ a ≠ 0) ∨
        ((opc = 0x04 ∨ opc = 0x05) ∧ (a ≠ 0 ∨ x ≠ 0))
    (illegal → step s = .next { s with req := none, kind := .illegalOp, results := .illegalOp :: s.results, abandoned := false }) ∧
      (¬ illegal → ∃ i, decodeOpw w = .ok i)

/-- spec/opcode_table.json: a word decodes to an operation of a row's mnemonic exactly when it matches the row. -/
def Obligations.DecoderFollowsOpcodeTable : Prop :=
  ∀ (w : OpWord) (m : String),
    (∃ i, decodeOpw w = .ok i ∧ i.mnemonic = m) ↔ ∃ r ∈ opcodeTable, r.holds w = true ∧ r.mnemonic = m

/-- R82, R83 with the words of spec/95_test_vectors.md V10 to V61. -/
def Obligations.SpecWordsDecode : Prop :=
  decodeOpw 0x0108000001AA = .ok (.send 8 0x1AA) ∧ decodeOpw 0x011112345678 = .ok (.send 17 0x12345678) ∧
    decodeOpw 0x013FFFFFFFFF = .ok (.send 63 0xFFFFFFFF) ∧ decodeOpw 0x020100000000 = .ok .resp1 ∧
    decodeOpw 0x020200000000 = .ok .resp2 ∧ decodeOpw 0x020500000000 = .ok .resp5 ∧
    decodeOpw 0x030000000200 = .ok (.rdblk 0x200) ∧ decodeOpw 0x040000000000 = .ok .release ∧
    decodeOpw 0x050000000000 = .ok .pwrup

/-! ### The step -/

/-- R30, R40: an idle block with a request executes the operation its word decodes to; the request is taken from the port. -/
def Obligations.StepAcceptsDecodedRequest : Prop :=
  ∀ (s : State) (w : OpWord) (i : Instr), s.rst = false → s.phase = .idle → s.req = some w → decodeOpw w = .ok i →
    step s = exec i { s with req := none }

/-- R40, R62: "while `phase != IDLE` a request waits and is not sampled": whatever is presented, a running operation makes the same
step and leaves the port as it is. -/
def Obligations.RunningOperationIgnoresRequest : Prop :=
  ∀ (s : State) (r : Option OpWord), s.rst = false → s.phase ≠ .idle →
    (∀ t, step s = .next t → step { s with req := r } = .next { t with req := r }) ∧
      (∀ f, step s = .fault f → step { s with req := r } = .fault f)

/-- R222, R239: a finished run stays as it is; an operation in flight is never such an end, nor is what a reset leaves of an operation it
abandoned in flight or at the port; and the step that completes the last operation of a host that has nothing left to do ends the run, well-formed
exactly when `cs = 0`. -/
def Obligations.FinishedRunStaysFinished : Prop :=
  ∀ s : State,
    (RunOver s → step s = .next s) ∧ (s.phase ≠ .idle → ¬ RunOver s) ∧
      (s.rst = true → s.phase ≠ .idle ∨ s.req ≠ none → ∀ t, step s = .next t → ¬ RunOver t) ∧
      (s.rst = false → s.phase ≠ .idle → s.req = none → s.prog = .free → s.calls = [] →
        ∀ t, step s = .next t → t.phase = .idle → RunOver t ∧ (RunWellFormed t ↔ t.cs = false))

/-! ### Reset -/

/-- R41: the reset values the spec gives. -/
def Obligations.ResetGivesListedValues : Prop :=
  State.reset.phase = .idle ∧ State.reset.cur = .none ∧ State.reset.cs = false ∧ State.reset.line = false ∧
    State.reset.rlen = 0 ∧ State.reset.status = 0xFF ∧ State.reset.token = 0xFF ∧ State.reset.kind = .ok

/-- R221, R41: a reset abandons the operation in flight with no result and no external call; the buffer is not reset, but that of
a read in flight is undefined (the model's choice, log 5); the host, as R221 requires of it, sets its session back (log 12), and what was
in flight or waiting is never completed (log 24). -/
def Obligations.BlockResetAbandonsOperation : Prop :=
  ∀ s : State, s.rst = true → ∃ t, step s = .next t ∧ t.rst = false ∧
    t.phase = .idle ∧ t.cur = .none ∧ t.cs = false ∧ t.line = false ∧ t.rlen = 0 ∧ t.status = 0xFF ∧ t.token = 0xFF ∧
    t.kind = .ok ∧ t.results = s.results ∧ t.trace = s.trace ∧ t.diag = s.diag ∧ t.card = s.card ∧
    t.session = .notInitialized ∧ t.cfg = s.cfg ∧ (t.abandoned = true ↔ s.abandoned = true ∨ s.phase ≠ .idle ∨ s.req ≠ none) ∧
    (s.cur ≠ .rdblk → t.buf = s.buf ∧ t.bufEpoch = s.bufEpoch) ∧
    (s.cur = .rdblk → ∀ i < blockLen, hostMemRead i t = some (Config.bufByte (s.bufEpoch + 1) i))

/-! ### Acceptance and the five operations -/

/-- R225, R226: SEND and RDBLK with `cs = 1` and RESP with `cs = 0` raise `ProtocolViolation`: nothing sent, nothing read, no
state but `KIND` changed (and the result presented to the host). That the refusal of a RESP leaves the diagnostic record as it is, is the model's
choice (log 7). -/
def Obligations.PreconditionBreachIsRefused : Prop :=
  ∀ s : State, s.phase = .idle →
    let refused : Result :=
      .next { s with kind := .protocolViolation, results := .protocolViolation :: s.results, abandoned := false }
    (s.cs = true → (∀ idx arg, exec (.send idx arg) s = refused) ∧ ∀ addr, exec (.rdblk addr) s = refused) ∧
      (s.cs = false → ∀ l, exec (respOf l) s = refused)

/-- R110, R112, R114, R30: SEND with `cs = 0` is accepted and seven steps later has completed with `Ok`: one `Select()`, the six
frame bytes, nothing else; the returned bytes reach no register; every other field is as before. -/
def Obligations.SendTransmitsFrame : Prop :=
  ∀ (idx : CmdIdx) (arg : Word) (s : State), s.rst = false → s.phase = .idle → s.cs = false →
    let f := frame s.cfg.cksumMode idx arg
    let accepted := { s with cur := .send, idx := idx, arg := arg, phase := .cfSel }
    exec (.send idx arg) s = .next accepted ∧
      run 7 accepted = .next { s with
        cur := .none, idx := idx, arg := arg, cnt := 5, cs := true, line := true, kind := .ok
        card := s.card.drop 6, xchgs := s.xchgs + 6
        trace := (.select :: exchanges s 0 f).reverse ++ s.trace
        diag := (diagBytes s 0 f ++ [DiagEvent.cmd idx arg]).reverse ++ s.diag
        results := .ok :: s.results, abandoned := false }

/-- R120, R122, R123, R126, R30: RESP with `cs = 1` is accepted; after `k` filler bytes within the bound it stores exactly `len`
bytes, the first with bit 7 clear and the rest unfiltered, and completes with `Ok`; every other field is as before. -/
def Obligations.RespReadsResponse : Prop :=
  ∀ (l : RespLen) (k : Nat) (s : State), s.rst = false → s.phase = .idle → s.cs = true →
    AllFiller s 0 k → isFiller (s.rx k) = false → withinLimit s.cfg.pollLimit k →
    let n := (lenOf l).toNat
    let accepted := { s with cur := .resp, len := lenOf l, rlen := 0, poll := 0, phase := .rrSkip }
    exec (respOf l) s = .next accepted ∧
      ∃ r : Vector Byte 5, (∀ i : Fin 5, r[i] = if i.val < n then s.rx (k + i.val) else s.resp[i]) ∧
        run (k + n) accepted = .next { s with
          cur := .none, len := lenOf l, rlen := lenOf l, poll := k + 1, resp := r, kind := .ok
          cnt := if n = 1 then s.cnt else BitVec.ofNat 10 (n - 1)
          card := s.card.drop (k + n), xchgs := s.xchgs + (k + n)
          trace := (exchanges s 0 (List.replicate (k + n) fill)).reverse ++ s.trace
          diag := .resp ((List.range n).map fun i => s.rx (k + i)) ::
            ((diagBytes s 0 (List.replicate (k + n) fill)).reverse ++ s.diag)
          results := .ok :: s.results, abandoned := false }

/-- R124: when `POLL_LIMIT` exchanges of one skip have all returned filler, the next step makes no exchange and completes with
`Timeout`, `RLEN = 0`, `RESP` unchanged, `cs` still 1; every other field is as before. -/
def Obligations.RespTimesOut : Prop :=
  ∀ (l : RespLen) (n : Nat) (s : State), s.rst = false → s.phase = .idle → s.cs = true →
    s.cfg.pollLimit = .upTo n → AllFiller s 0 n →
    let accepted := { s with cur := .resp, len := lenOf l, rlen := 0, poll := 0, phase := .rrSkip }
    exec (respOf l) s = .next accepted ∧
      run (n + 1) accepted = .next { s with
        cur := .none, len := lenOf l, rlen := 0, poll := n, kind := .timeout
        card := s.card.drop n, xchgs := s.xchgs + n
        trace := (exchanges s 0 (List.replicate n fill)).reverse ++ s.trace
        diag := .resp [] :: ((diagBytes s 0 (List.replicate n fill)).reverse ++ s.diag)
        results := .timeout :: s.results, abandoned := false }

/-- R205, R231: with `POLL_LIMIT = INF` a RESP whose card answers filler is still in its poll loop after any number of steps. -/
def Obligations.RespHangsOnSilentCard : Prop :=
  ∀ (l : RespLen) (k : Nat) (s : State), s.rst = false → s.phase = .idle → s.cs = true →
    s.cfg.pollLimit = .inf → AllFiller s 0 k →
    let accepted := { s with cur := .resp, len := lenOf l, rlen := 0, poll := 0, phase := .rrSkip }
    exec (respOf l) s = .next accepted ∧ ∃ t, run k accepted = .next t ∧ t.phase = .rrSkip ∧ t.cur = .resp ∧
      t.results = s.results ∧ t.resp = s.resp ∧ t.rlen = 0

/-- R205, R231: with `POLL_LIMIT = INF` the two polls of an RDBLK are kept without end: while the card answers filler to the status poll, or
0xFF to the token wait after a zero status, the read is still in that poll after any number of steps, with no result, no call but the exchanges, and `cs = 1`. -/
def Obligations.RdblkHangsOnSilentCard : Prop :=
  ∀ (addr : Word) (s : State), s.rst = false → s.phase = .idle → s.cs = false → s.cfg.pollLimit = .inf →
    let f := frame s.cfg.cksumMode readBlockIdx addr
    let accepted :=
      { s with cur := .rdblk, idx := readBlockIdx, arg := addr, status := 0xFF, token := 0xFF, phase := .cfSel }
    exec (.rdblk addr) s = .next accepted ∧
      (∀ k, AllFiller s 6 k → ∃ t, run (7 + k) accepted = .next t ∧ t.phase = .brStatus ∧ t.cur = .rdblk ∧ t.cs = true ∧
        t.status = 0xFF ∧ t.token = 0xFF ∧ t.results = s.results ∧ t.buf = s.buf ∧
        t.trace = (.select :: exchanges s 0 f ++ exchanges s 6 (List.replicate k fill)).reverse ++ s.trace) ∧
      (∀ k1 k2, AllFiller s 6 k1 → s.rx (6 + k1) = 0x00 → AllNotReady s (7 + k1) k2 →
        ∃ t, run (8 + k1 + k2) accepted = .next t ∧ t.phase = .brToken ∧ t.cur = .rdblk ∧ t.cs = true ∧
          t.status = 0x00 ∧ t.token = 0xFF ∧ t.results = s.results ∧ t.buf = s.buf ∧
          t.trace = (.select :: exchanges s 0 f ++ exchanges s 6 (List.replicate (k1 + 1 + k2) fill)).reverse ++ s.trace)

/-- R130 to R136, R138, R139 (last row): RDBLK with `cs = 0` is accepted and, when the card answers a zero status after `k1` filler
bytes and the start token after `k2` not-ready bytes, ends with `Ok`, `STATUS = 0`, `TOKEN = 0xFE`, the 512 payload bytes in
`BUF`, the two checksum bytes and the trailing byte discarded, `cs = 0`; every other field is as before. -/
def Obligations.RdblkReadsBlock : Prop :=
  ∀ (addr : Word) (k1 k2 : Nat) (s : State), s.rst = false → s.phase = .idle → s.cs = false → Memory.wf s.buf →
    AllFiller s 6 k1 → s.rx (6 + k1) = 0x00 → withinLimit s.cfg.pollLimit k1 →
    AllNotReady s (7 + k1) k2 → s.rx (7 + k1 + k2) = 0xFE → withinLimit s.cfg.pollLimit k2 →
    let f := frame s.cfg.cksumMode readBlockIdx addr
    let d := 8 + k1 + k2
    let accepted :=
      { s with cur := .rdblk, idx := readBlockIdx, arg := addr, status := 0xFF, token := 0xFF, phase := .cfSel }
    exec (.rdblk addr) s = .next accepted ∧
      ∃ b : List Host.Cell,
        (∀ i, Memory.read i b = if i < blockLen then some (s.rx (d + i)) else Memory.read i s.buf) ∧
        run (d + 517) accepted = .next { s with
          cur := .none, idx := readBlockIdx, arg := addr, cnt := 1, poll := k2 + 1, cs := false, line := false
          status := 0x00, token := 0xFE, kind := .ok, buf := b
          card := s.card.drop (d + 515), xchgs := s.xchgs + (d + 515)
          trace :=
            (.select :: exchanges s 0 f ++ exchanges s 6 (List.replicate (k1 + 1 + k2 + 1) fill) ++ payloadCalls s d ++
              exchanges s (d + 512) [fill, fill] ++ .deselect :: exchanges s (d + 514) [fill]).reverse ++ s.trace
          diag :=
            (diagBytes s 0 f ++ DiagEvent.cmd readBlockIdx addr :: diagBytes s 6 (List.replicate (k1 + k2 + 517) fill)).reverse ++
              s.diag
          results := .ok :: s.results, abandoned := false }

/-- R132, R138, R139 (row 4), R52: a non-zero status ends the read before any token wait; `STATUS` keeps the byte unchanged, step 5
is performed, and every byte of `BUF` is a free value afterwards. -/
def Obligations.RdblkFailsOnErrorStatus : Prop :=
  ∀ (addr : Word) (k : Nat) (s : State), s.rst = false → s.phase = .idle → s.cs = false →
    AllFiller s 6 k → isFiller (s.rx (6 + k)) = false → s.rx (6 + k) ≠ 0x00 → withinLimit s.cfg.pollLimit k →
    let f := frame s.cfg.cksumMode readBlockIdx addr
    let accepted :=
      { s with cur := .rdblk, idx := readBlockIdx, arg := addr, status := 0xFF, token := 0xFF, phase := .cfSel }
    exec (.rdblk addr) s = .next accepted ∧
      run (k + 10) accepted = .next { s with
        cur := .none, idx := readBlockIdx, arg := addr, cnt := 5, poll := k + 1, cs := false, line := false
        status := s.rx (6 + k), token := 0xFF, kind := .operationFailed, buf := [], bufEpoch := s.bufEpoch + 1
        card := s.card.drop (k + 8), xchgs := s.xchgs + (k + 8)
        trace :=
          (.select :: exchanges s 0 f ++ exchanges s 6 (List.replicate (k + 1) fill) ++
            .deselect :: exchanges s (k + 7) [fill]).reverse ++ s.trace
        diag := (diagBytes s 0 f ++ DiagEvent.cmd readBlockIdx addr :: diagBytes s 6 (List.replicate (k + 2) fill)).reverse ++ s.diag
        results := .operationFailed :: s.results, abandoned := false }

/-- R133, R134, R137, R138, R139 (row 6), R52: the first byte that is not 0xFF decides; if it is not 0xFE no payload is read, `TOKEN` holds
it, `STATUS` is 0, step 5 is performed, and every byte of `BUF` is a free value afterwards. -/
def Obligations.RdblkFailsOnErrorToken : Prop :=
  ∀ (addr : Word) (k1 k2 : Nat) (s : State), s.rst = false → s.phase = .idle → s.cs = false →
    AllFiller s 6 k1 → s.rx (6 + k1) = 0x00 → withinLimit s.cfg.pollLimit k1 →
    AllNotReady s (7 + k1) k2 → s.rx (7 + k1 + k2) ≠ 0xFF → s.rx (7 + k1 + k2) ≠ 0xFE → withinLimit s.cfg.pollLimit k2 →
    let f := frame s.cfg.cksumMode readBlockIdx addr
    let accepted :=
      { s with cur := .rdblk, idx := readBlockIdx, arg := addr, status := 0xFF, token := 0xFF, phase := .cfSel }
    exec (.rdblk addr) s = .next accepted ∧
      run (k1 + k2 + 11) accepted = .next { s with
        cur := .none, idx := readBlockIdx, arg := addr, cnt := 5, poll := k2 + 1, cs := false, line := false
        status := 0x00, token := s.rx (7 + k1 + k2), kind := .tokenError, buf := [], bufEpoch := s.bufEpoch + 1
        card := s.card.drop (k1 + k2 + 9), xchgs := s.xchgs + (k1 + k2 + 9)
        trace :=
          (.select :: exchanges s 0 f ++ exchanges s 6 (List.replicate (k1 + k2 + 2) fill) ++
            .deselect :: exchanges s (k1 + k2 + 8) [fill]).reverse ++ s.trace
        diag :=
          (diagBytes s 0 f ++ DiagEvent.cmd readBlockIdx addr :: diagBytes s 6 (List.replicate (k1 + k2 + 3) fill)).reverse ++ s.diag
        results := .tokenError :: s.results, abandoned := false }

/-- R140, R138, R139 (rows 3 and 5), R52: when `POLL_LIMIT` exchanges of one of the two polls have been used up the read ends with
`Timeout` through step 5, `STATUS` 0xFF in step 2 and 0x00 in step 3, `TOKEN` 0xFF, and every byte of `BUF` a free value. -/
def Obligations.RdblkTimesOut : Prop :=
  ∀ (addr : Word) (n : Nat) (s : State), s.rst = false → s.phase = .idle → s.cs = false → s.cfg.pollLimit = .upTo n →
    let f := frame s.cfg.cksumMode readBlockIdx addr
    let accepted :=
      { s with cur := .rdblk, idx := readBlockIdx, arg := addr, status := 0xFF, token := 0xFF, phase := .cfSel }
    let ended (status : Byte) (x : Nat) : State :=
      { s with
        cur := .none, idx := readBlockIdx, arg := addr, cnt := 5, poll := n, cs := false, line := false
        status := status, token := 0xFF, kind := .timeout, buf := [], bufEpoch := s.bufEpoch + 1
        card := s.card.drop (x + 7), xchgs := s.xchgs + (x + 7)
        trace :=
          (.select :: exchanges s 0 f ++ exchanges s 6 (List.replicate x fill) ++
            .deselect :: exchanges s (x + 6) [fill]).reverse ++ s.trace
        diag := (diagBytes s 0 f ++ DiagEvent.cmd readBlockIdx addr :: diagBytes s 6 (List.replicate (x + 1) fill)).reverse ++ s.diag
        results := .timeout :: s.results, abandoned := false }
    exec (.rdblk addr) s = .next accepted ∧
      (AllFiller s 6 n → run (n + 10) accepted = .next (ended 0xFF n)) ∧
      (∀ k, AllFiller s 6 k → s.rx (6 + k) = 0x00 → k < n → AllNotReady s (7 + k) n →
        run (k + n + 11) accepted = .next (ended 0x00 (k + 1 + n)))

/-- R150, R30: RELEASE is accepted whatever `cs` is and two steps later has completed with `Ok`: one `Deselect()`, one exchange whose
byte is discarded; every other field is as before. -/
def Obligations.ReleaseEndsCycle : Prop :=
  ∀ s : State, s.rst = false → s.phase = .idle →
    let accepted := { s with cur := .release, phase := .rlDesel }
    exec .release s = .next accepted ∧
      run 2 accepted = .next { s with
        cur := .none, cs := false, line := false, kind := .ok, card := s.card.drop 1, xchgs := s.xchgs + 1
        trace := .xchg fill (s.rx 0) :: .deselect :: s.trace, diag := .byte fill (s.rx 0) :: s.diag
        results := .ok :: s.results, abandoned := false }

/-- R152, R30: PWRUP is accepted whatever `cs` is and completes with `Ok` after one `Deselect()` and `POWERUP_EXCHANGES` exchanges whose
bytes are discarded; every other field is as before. -/
def Obligations.PwrupClocksIdleBus : Prop :=
  ∀ s : State, s.rst = false → s.phase = .idle → s.cfg.wf = true →
    let n := s.cfg.powerupExchanges
    let accepted := { s with cur := .pwrup, phase := .puDesel }
    exec .pwrup s = .next accepted ∧
      run (n + 1) accepted = .next { s with
        cur := .none, cnt := BitVec.ofNat 10 (n - 1), cs := false, line := false, kind := .ok
        card := s.card.drop n, xchgs := s.xchgs + n
        trace := (exchanges s 0 (List.replicate n fill)).reverse ++ .deselect :: s.trace
        diag := (diagBytes s 0 (List.replicate n fill)).reverse ++ s.diag
        results := .ok :: s.results, abandoned := false }

/-! ### Rules about every step of the machine -/

/-- R24: `cs` is set by a `Select()` the block calls and cleared by a `Deselect()` it calls (and by its reset, R221); nothing else
changes it. -/
def Obligations.ChipSelectFollowsCalls : Prop :=
  ∀ s t : State, step s = .next t →
    ∃ new, t.trace = new ++ s.trace ∧
      ((s.rst = true ∧ t.cs = false ∧ new = []) ∨ (s.rst = false ∧ t.cs = true ∧ new = [Call.select]) ∨
        (s.rst = false ∧ t.cs = false ∧ new = [Call.deselect]) ∨
        (s.rst = false ∧ t.cs = s.cs ∧ Call.select ∉ new ∧ Call.deselect ∉ new))

/-- R11, R154, R87: a step makes at most one of the calls `Select`, `Deselect`, `Xchg` (a payload exchange is followed by its store), and the
only bytes ever transmitted are frame bytes and 0xFF. -/
def Obligations.OneExternalCallPerStep : Prop :=
  ∀ s t : State, step s = .next t →
    t.trace = s.trace ∨ t.trace = .select :: s.trace ∨ t.trace = .deselect :: s.trace ∨
      t.trace = .xchg 0xFF (s.rx 0) :: s.trace ∨
      (s.phase = .cfTx ∧ ∃ tx, frameByte s.cfg.cksumMode s.idx s.arg s.cnt.toNat = some tx ∧
        t.trace = .xchg tx (s.rx 0) :: s.trace) ∨
      (s.phase = .brData ∧ t.trace = .memWrite s.cnt.toNat (s.rx 0) :: .xchg 0xFF (s.rx 0) :: s.trace)

/-- R58, R34: the card's stream advances by one byte with every exchange and by nothing else. -/
def Obligations.CardAdvancesWithExchanges : Prop :=
  ∀ s t : State, step s = .next t →
    ∃ new, t.trace = new ++ s.trace ∧
      ((t.xchgs = s.xchgs ∧ t.card = s.card ∧ ∀ tx rx, Call.xchg tx rx ∉ new) ∨
        (t.xchgs = s.xchgs + 1 ∧ t.card = s.card.tail ∧ ∃ tx, Call.xchg tx (s.rx 0) ∈ new))

/-- R21: the operand latches are "written only when an operation is accepted (rule R30) and constant while it runs": `IDX` and `ARG` from the word
by SEND, 17 and the address by RDBLK, `LEN` by RESP, `CUR` by every operation and set to `NONE` at its completion. -/
def Obligations.OperandLatchesWrittenAtAcceptance : Prop :=
  ∀ s t : State, s.rst = false → step s = .next t →
    (s.phase ≠ .idle →
      t.idx = s.idx ∧ t.arg = s.arg ∧ t.len = s.len ∧ (t.cur = s.cur ∨ (t.cur = .none ∧ t.phase = .idle))) ∧
    (s.phase = .idle →
      (t.idx = s.idx ∧ t.arg = s.arg ∧ t.len = s.len ∧ t.cur = s.cur) ∨
        ∃ w i, s.req = some w ∧ decodeOpw w = .ok i ∧ t.phase ≠ .idle ∧ t.cur = curOf i ∧
          (match i with
            | .send idx arg => t.idx = idx ∧ t.arg = arg ∧ t.len = s.len
            | .rdblk addr => t.idx = 17 ∧ t.arg = addr ∧ t.len = s.len
            | .resp1 => t.idx = s.idx ∧ t.arg = s.arg ∧ t.len = 1
            | .resp2 => t.idx = s.idx ∧ t.arg = s.arg ∧ t.len = 2
            | .resp5 => t.idx = s.idx ∧ t.arg = s.arg ∧ t.len = 5
            | .release => t.idx = s.idx ∧ t.arg = s.arg ∧ t.len = s.len
            | .pwrup => t.idx = s.idx ∧ t.arg = s.arg ∧ t.len = s.len))

/-- R31: `Complete` is the only way out of an operation: a step of a running operation goes to `IDLE` exactly when it presents one
result, the new `KIND`, and clears `CUR`. -/
def Obligations.OnlyCompletionEndsOperation : Prop :=
  ∀ s t : State, s.rst = false → s.phase ≠ .idle → step s = .next t →
    (t.phase = .idle ∧ t.cur = .none ∧ t.results = t.kind :: s.results ∧ t.abandoned = false) ∨
      (t.phase ≠ .idle ∧ t.cur = s.cur ∧ t.results = s.results ∧ t.abandoned = s.abandoned)

/-- R22: `RESP` and `RLEN` are written by RESP only (`RLEN` to 0 at its acceptance), `STATUS` and `TOKEN` by RDBLK only (to 0xFF at its
acceptance). -/
def Obligations.ResultRegistersHaveOneWriter : Prop :=
  ∀ s t : State, s.rst = false → step s = .next t →
    (t.resp ≠ s.resp → s.phase = .rrSkip ∨ s.phase = .rrRest) ∧
      (t.rlen ≠ s.rlen → s.phase = .rrSkip ∨ s.phase = .rrRest ∨ (s.phase = .idle ∧ t.cur = .resp ∧ t.rlen = 0)) ∧
      (t.status ≠ s.status → s.phase = .brStatus ∨ (s.phase = .idle ∧ t.cur = .rdblk ∧ t.status = 0xFF)) ∧
      (t.token ≠ s.token → s.phase = .brToken ∨ (s.phase = .idle ∧ t.cur = .rdblk ∧ t.token = 0xFF))

/-- R51, R52, R58: the buffer is written only in `BR_DATA`, the byte received at the index `cnt`; otherwise it is unchanged, or it becomes
undefined as a whole when a read ends with a kind other than `Ok` (or is abandoned by a reset, log 5). -/
def Obligations.BufferWrittenByPayloadOnly : Prop :=
  ∀ s t : State, Memory.wf s.buf → step s = .next t →
    (t.buf = s.buf ∧ t.bufEpoch = s.bufEpoch) ∨
      (s.rst = false ∧ s.phase = .brData ∧ t.bufEpoch = s.bufEpoch ∧
        ∀ i, Memory.read i t.buf = if i = s.cnt.toNat then some (s.rx 0) else Memory.read i s.buf) ∨
      (((s.rst = false ∧ s.phase = .brTrail ∧ s.kind ≠ .ok) ∨ (s.rst = true ∧ s.cur = .rdblk)) ∧
        ∀ i < blockLen, hostMemRead i t = some (Config.bufByte (s.bufEpoch + 1) i))

/-- R29, R39: "failure to write must not affect protocol correctness": what the diagnostic sink holds changes no step. -/
def Obligations.DiagnosticSinkIsWriteOnly : Prop :=
  ∀ (s : State) (d : List DiagEvent),
    (∀ t, step s = .next t → ∃ e, t.diag = e ++ s.diag ∧ step { s with diag := d } = .next { t with diag := e ++ d }) ∧
      (∀ f, step s = .fault f → step { s with diag := d } = .fault f)

/-- R8, R32: the configuration is fixed. -/
def Obligations.ConfigurationIsFixed : Prop := ∀ s t : State, step s = .next t → t.cfg = s.cfg

/-- R23, R229, R51, R52: the host reads the result registers and the buffer only while the block is idle; of `RESP` it reads only the `RLEN` bytes the
last RESP wrote; of `BUF`, at an index of 0 to 511, the defined byte, or the free value of an undefined one (log 4), and outside it nothing. -/
def Obligations.HostReadsOnlyWhenIdle : Prop :=
  ∀ s : State,
    (s.phase ≠ .idle → hostView s = none ∧ ∀ i, hostMemRead i s = none) ∧
      (s.phase = .idle →
        (s.rlen.toNat ≤ 5 →
          ∃ v, hostView s = some v ∧ v.kind = s.kind ∧ v.status = s.status ∧ v.token = s.token ∧ v.cs = s.cs ∧ v.rlen = s.rlen ∧
            v.resp.length = s.rlen.toNat ∧ ∀ i : Fin 5, i.val < s.rlen.toNat → v.resp[i.val]? = some s.resp[i]) ∧
        (∀ i < 512, ∀ b, Memory.read i s.buf = some b → hostMemRead i s = some b) ∧
        (∀ i < 512, Memory.read i s.buf = none → hostMemRead i s = some (Config.bufByte s.bufEpoch i)) ∧
        (∀ i, 512 ≤ i → hostMemRead i s = none))

/-! ### Invariants and liveness -/

/-- The block's invariant holds after reset. -/
def Obligations.BlockInvariantAtReset : Prop := Inv State.reset

/-- From every state with the invariant a step answers a next state (no fault, no refusal) that has it again: the phases, `CUR`, `cs` and the
line, the counters' ranges, the bound on `poll`, the legal lengths, the canonical buffer, and the result registers of R139. -/
def Obligations.BlockInvariantKept : Prop := ∀ s : State, Inv s → ∃ t, step s = .next t ∧ Inv t

/-- R139, R138, R193: whenever an RDBLK completes, `cs = 0` and `KIND`, `STATUS` and `TOKEN` are those of one row of the table; with `Ok` all
512 bytes of `BUF` are defined, otherwise each is a free value. -/
def Obligations.RdblkCompletionMatchesTable : Prop :=
  ∀ s t : State, Inv s → s.rst = false → s.cur = .rdblk → step s = .next t → t.phase = .idle →
    t.cs = false ∧
      ((t.kind = .ok ∧ t.status = 0x00 ∧ t.token = 0xFE ∧ (∀ i < blockLen, (Memory.read i t.buf).isSome = true)) ∨
       ((t.kind = .operationFailed ∧ t.status ≠ 0x00 ∧ t.status.msb = false ∧ t.token = 0xFF ∨
         t.kind = .tokenError ∧ t.status = 0x00 ∧ t.token ≠ 0xFE ∧ t.token ≠ 0xFF ∨
         t.kind = .timeout ∧ (t.status = 0xFF ∨ t.status = 0x00) ∧ t.token = 0xFF) ∧
        ∀ i < blockLen, hostMemRead i t = some (Config.bufByte t.bufEpoch i)))

/-- R205: "with finite limits every operation terminates": an operation in flight completes within `2 * POLL_LIMIT + 523` steps, whatever the
card answers. -/
def Obligations.FiniteLimitTerminates : Prop :=
  ∀ (s : State) (n : Nat), Inv s → s.rst = false → s.phase ≠ .idle → s.cfg.pollLimit = .upTo n →
    ∃ m ≤ 2 * n + 523, ∃ t, run m s = .next t ∧ t.phase = .idle ∧ t.results = t.kind :: s.results ∧ Inv t

/-! ### The host program -/

/-- The host program's invariant holds after reset. -/
def Obligations.HostInvariantAtReset : Prop := HostInv State.reset

/-- R161 to R169, R172, R175, R176: every step keeps the relation between the sequencer's position, its session, the request port, `cs` and
`KIND`. -/
def Obligations.HostInvariantKept : Prop :=
  ∀ s t : State, Inv s → HostInv s → step s = .next t → HostInv t

/-- R175: "`IllegalOp` and `ProtocolViolation` cannot occur in this program". -/
def Obligations.InitNeverBreaksDiscipline : Prop :=
  ∀ (s t : State) (st : SeqState) (at_ : CmdStep), Inv s → HostInv s → s.prog = .init st at_ → s.rst = false →
    step s = .next t → t.results = s.results ∨
      ∃ k, t.results = k :: s.results ∧ k ≠ .illegalOp ∧ k ≠ .protocolViolation

/-- R163, R170, R89: `INIT` begins with PWRUP and a session of `NotInitialized`, and each of its commands is SEND, RESP, RELEASE with the index,
argument and length of R164 to R168. -/
def Obligations.InitIssuesItsCommands : Prop :=
  ∀ s : State, s.rst = false → s.phase = .idle → s.req = none →
    (∀ rest, s.prog = .free → s.calls = .init :: rest →
      step s = .next { s with
        calls := rest, session := .notInitialized, iter := 0, req := some (encode .pwrup), prog := .init .reset .send }) ∧
    (∀ st, s.prog = .init st .send → (st = .opCondPrefix → limitReached s.cfg.opcondLimit s.iter = false) →
      let c : CmdIdx × Word := match st with
        | .reset => (0, 0) | .interfaceCheck => (8, 0x1AA) | .capabilitiesProbe => (58, 0) | .opCondPrefix => (55, 0)
        | .opCondQuery => (41, s.cfg.hcsArg) | .capacityModeQuery => (58, 0)
      step s = .next { s with req := some (encode (.send c.1 c.2)), prog := .init st .resp }) ∧
    (∀ st, s.prog = .init st .resp →
      let l : RespLen := match st with
        | .reset => .one | .interfaceCheck => .five | .capabilitiesProbe => .five | .opCondPrefix => .one
        | .opCondQuery => .one | .capacityModeQuery => .five
      step s = .next { s with req := some (encode (respOf l)), prog := .init st .release }) ∧
    (∀ st, s.prog = .init st .release →
      step s = .next { s with respKind := s.kind, req := some (encode .release), prog := .init st .check })

/-- R164, R165: the checks of the states Reset and InterfaceCheck, "the first that fails decides". -/
def Obligations.InitChecksIdleVoltageAndPattern : Prop :=
  ∀ s : State, s.rst = false → s.phase = .idle → s.req = none → s.respKind = .ok →
    let failed (r : HostResult) : Result := .next { s with session := .notInitialized, prog := .free, hostResult := some r }
    (s.prog = .init .reset .check →
      (s.resp[0] ≠ 0x01 → step s = failed .notIdle) ∧
      (s.resp[0] = 0x01 → step s = .next { s with session := .idleConfirmed, prog := .init .interfaceCheck .send })) ∧
    (s.prog = .init .interfaceCheck .check →
      (s.resp[0] ≠ 0x01 → step s = failed .notIdle) ∧
      (s.resp[0] = 0x01 → s.resp[3].extractLsb' 0 4 ≠ 0x1 → step s = failed .unsupportedVoltage) ∧
      (s.resp[0] = 0x01 → s.resp[3].extractLsb' 0 4 = 0x1 → s.resp[4] ≠ 0xAA → step s = failed .checkPatternMismatch) ∧
      (s.resp[0] = 0x01 → s.resp[3].extractLsb' 0 4 = 0x1 → s.resp[4] = 0xAA →
        step s = .next { s with session := .interfaceConfirmed, prog := .init .capabilitiesProbe .send }))

/-- R166, R167, R173: the probe's response is not tested; CMD55's response is not tested; the loop repeats while bit 0 of CMD41's response is set,
and fails with `Timeout` when `OPCOND_LIMIT` iterations have ended so; with `INF` it goes on whatever the count (R205). -/
def Obligations.OperatingConditionLoop : Prop :=
  ∀ s : State, s.rst = false → s.phase = .idle → s.req = none →
    (s.respKind = .ok →
      (s.prog = .init .capabilitiesProbe .check →
        step s = .next { s with session := .opCondPending, iter := 0, prog := .init .opCondPrefix .send }) ∧
      (s.prog = .init .opCondPrefix .check → step s = .next { s with prog := .init .opCondQuery .send }) ∧
      (s.prog = .init .opCondQuery .check →
        (s.resp[0].getLsbD 0 = true → step s = .next { s with iter := s.iter + 1, prog := .init .opCondPrefix .send }) ∧
        (s.resp[0].getLsbD 0 = false →
          step s = .next { s with iter := s.iter + 1, prog := .init .capacityModeQuery .send }))) ∧
    (∀ n, s.prog = .init .opCondPrefix .send → s.cfg.opcondLimit = .upTo n → s.iter = n →
      step s = .next { s with session := .notInitialized, prog := .free, hostResult := some .timeout }) ∧
    (s.prog = .init .opCondPrefix .send → s.cfg.opcondLimit = .inf →
      step s = .next { s with req := some (encode (.send 55 0)), prog := .init .opCondPrefix .resp })

/-- R168, R169: bit 6 of response byte 1 decides the capacity mode, and `INIT` returns `Ok` with the session Ready. -/
def Obligations.CapacityModeDecidesReady : Prop :=
  ∀ s : State, s.rst = false → s.phase = .idle → s.req = none → s.respKind = .ok →
    s.prog = .init .capacityModeQuery .check →
    (s.resp[1].getLsbD 6 = true →
      step s = .next { s with session := .ready .highCapacity, prog := .free, hostResult := some .ok }) ∧
    (s.resp[1].getLsbD 6 = false →
      step s = .next { s with session := .ready .standard, prog := .free, hostResult := some .ok })

/-- R175, R172: a RESP that timed out fails the attempt with `Timeout`, after the RELEASE the cycle owed. -/
def Obligations.RespTimeoutFailsInit : Prop :=
  ∀ (s : State) (st : SeqState), s.rst = false → s.phase = .idle → s.req = none → s.respKind = .timeout →
    s.prog = .init st .check →
    step s = .next { s with session := .notInitialized, prog := .free, hostResult := some .timeout }

/-- R176: `READ` is refused with `NotReady` without issuing any operation unless the session is Ready; otherwise it issues RDBLK with the address
unchanged and returns by the status byte; the session is unchanged. That the
status byte alone decides, also after a timeout or a refused RDBLK, is the model's choice (log 16). -/
def Obligations.ReadIsGatedBySession : Prop :=
  ∀ s : State, s.rst = false → s.phase = .idle → s.req = none →
    (∀ addr rest, s.prog = .free → s.calls = .read addr :: rest →
      (s.session.isReady = false → step s = .next { s with calls := rest, hostResult := some .notReady }) ∧
      (s.session.isReady = true →
        step s = .next { s with calls := rest, req := some (encode (.rdblk addr)), prog := .readWait })) ∧
    (s.prog = .readWait →
      (s.status = 0x00 → step s = .next { s with prog := .free, hostResult := some .ok }) ∧
      (s.status ≠ 0x00 → step s = .next { s with prog := .free, hostResult := some (.operationFailed s.status) }))

/-- R160, R23: a step of the host changes nothing of the block, its bus or the buffer: it reads results and presents a request. -/
def Obligations.HostStepLeavesBlockAlone : Prop :=
  ∀ s t : State, s.rst = false → s.phase = .idle → s.req = none → step s = .next t →
    t = { s with
      req := t.req, session := t.session, prog := t.prog, iter := t.iter, hostResult := t.hostResult
      respKind := t.respKind, calls := t.calls }

/-- R161, R143: the session is "mutated only by the sequencer": a step of the block changes no host state. -/
def Obligations.BlockStepLeavesHostAlone : Prop :=
  ∀ s t : State, s.rst = false → (s.phase ≠ .idle ∨ s.req ≠ none) → step s = .next t →
    t.session = s.session ∧ t.prog = s.prog ∧ t.iter = s.iter ∧ t.hostResult = s.hostResult ∧ t.respKind = s.respKind ∧
      t.calls = s.calls

/-! ### The Checksum Generator and the frame -/

/-- R102: the two values "fixed by the source for every conformant implementation, whatever the mode", and the bytes 0x95 and 0x87 on the wire. -/
def Obligations.ChecksumOfKnownCommands : Prop :=
  ∀ mode : CksumMode, ck7 mode 0 0 = 0x4A ∧ ck7 mode 8 0x1AA = 0x43 ∧
    frameByte mode 0 0 5 = some 0x95 ∧ frameByte mode 8 0x1AA 5 = some 0x87

/-- R103: `TABLE` mode has the two constants, keyed on index and argument, and the placeholder for every other pair. -/
def Obligations.TableModePlaceholder : Prop :=
  ∀ (p : Ck) (idx : CmdIdx) (arg : Word), ck7 (.table p) 0 0 = 0x4A ∧ ck7 (.table p) 8 0x1AA = 0x43 ∧
    (¬ (idx = 0 ∧ arg = 0) → ¬ (idx = 8 ∧ arg = 0x1AA) → ck7 (.table p) idx arg = p)

/-- R106: the worked values. -/
def Obligations.ChecksumWorkedValues : Prop :=
  ck7 .crc7 17 0 = 0x2A ∧ ck7 .crc7 55 0 = 0x32 ∧ ck7 .crc7 41 0x40000000 = 0x3B ∧ ck7 .crc7 58 0 = 0x7E ∧
    ck7 .crc7 63 0xFFFFFFFF = 0x0C

/-- R105: the checksum is linear over GF(2) in the message bits. -/
def Obligations.ChecksumIsLinear : Prop :=
  ∀ a b : List Byte, a.length = b.length → crc7 (List.zipWith (· ^^^ ·) a b) = crc7 a ^^^ crc7 b

/-- R101: `Ck7` is the CRC of the first five frame bytes, and the CRC of any message of bytes is the remainder of M(x)·x^7 divided by
G(x) = x^7 + x^3 + 1 over GF(2), M(x) with bit 7 of the first byte as its leading coefficient. -/
def Obligations.ChecksumIsPolynomialRemainder : Prop :=
  (∀ (idx : CmdIdx) (arg : Word), ck7 .crc7 idx arg =
    crc7 [0x40 ||| idx.setWidth 8, arg.extractLsb' 24 8, arg.extractLsb' 16 8, arg.extractLsb' 8 8, arg.extractLsb' 0 8]) ∧
  ∀ m : List Byte,
    (∑ i ∈ Finset.range 7, if (crc7 m).getLsbD i then (Polynomial.X : Polynomial (ZMod 2)) ^ i else 0) =
      ((∑ j ∈ Finset.range (8 * m.length),
          if (m.reverse.getD (j / 8) 0).getLsbD (j % 8) then (Polynomial.X : Polynomial (ZMod 2)) ^ j else 0) *
        Polynomial.X ^ 7) %ₘ (Polynomial.X ^ 7 + Polynomial.X ^ 3 + 1)

/-- R70, R71, R73, R87: a frame is six bytes; byte 0 is `0x40 | idx` with bit 7 clear and bit 6 set; bytes 1 to 4 are the argument, most significant
byte first; byte 5 is the checksum in bits 7:1 with bit 0 set; `FrameByte` gives them by position. -/
def Obligations.FrameLayout : Prop :=
  ∀ (mode : CksumMode) (idx : CmdIdx) (arg : Word),
    ∃ b0 b1 b2 b3 b4 b5 : Byte, frame mode idx arg = [b0, b1, b2, b3, b4, b5] ∧
      (∀ n, frameByte mode idx arg n = (frame mode idx arg)[n]?) ∧
      b0 = 0x40 ||| idx.setWidth 8 ∧ b0.getLsbD 7 = false ∧ b0.getLsbD 6 = true ∧ b0.extractLsb' 0 6 = idx ∧
      b1 ++ b2 ++ b3 ++ b4 = arg ∧ b5.extractLsb' 1 7 = ck7 mode idx arg ∧ b5.getLsbD 0 = true

/-- R193, R194: the codes of the block's result kinds, no two alike and none of the reserved 6 to 15, and those of the host programs' results, which tell
every two results apart but for the status byte. -/
def Obligations.KindCodes : Prop :=
  (Kind.ok.code = 0 ∧ Kind.operationFailed.code = 1 ∧ Kind.tokenError.code = 2 ∧ Kind.timeout.code = 3 ∧
    Kind.illegalOp.code = 4 ∧ Kind.protocolViolation.code = 5 ∧ (∀ j k : Kind, j.code = k.code → j = k) ∧ ∀ k : Kind, k.code < 6) ∧
  (HostResult.ok.code = 0 ∧ (∀ b, (HostResult.operationFailed b).code = 1) ∧ HostResult.timeout.code = 3 ∧ HostResult.notIdle.code = 8 ∧
    HostResult.unsupportedVoltage.code = 9 ∧ HostResult.checkPatternMismatch.code = 10 ∧ HostResult.notReady.code = 11 ∧
    ∀ q r : HostResult, q.code = r.code → q = r ∨ ∃ a b, q = .operationFailed a ∧ r = .operationFailed b)
end

