-- ==== Sys2Proof/Laws/Memory.lean ====
section
/-! SUPPORT. The laws of the Block Buffer: read after write, frame, and the canonical form is kept (spec/20_memory.md R50, R51,
R58). -/

namespace Sys2Proof.Machine

@[simp] theorem Memory.read_nil (a : Nat) : Memory.read a [] = none := rfl

theorem Memory.read_write (a i : Nat) (b : Byte) (m : List Host.Cell) (h : Memory.wf m) :
    Memory.read a (Memory.write i b m) = if a = i then some b else Memory.read a m := by
  induction m with
  | nil => simp [Memory.write, Memory.read]
  | cons c rest ih =>
    obtain ⟨a', b'⟩ := c
    have hrest : Memory.wf rest := ⟨h.1.of_cons, fun c hc => h.2 c (List.mem_cons_of_mem _ hc)⟩
    simp only [Memory.write]
    split
    · simp only [Memory.read]
    · split
      · subst_vars; simp only [Memory.read]; split <;> simp_all
      · simp only [Memory.read, ih hrest]
        split
        · subst_vars; simp_all [eq_comm]
        · rfl

@[simp] theorem Memory.read_write_same (i : Nat) (b : Byte) (m : List Host.Cell) (h : Memory.wf m) :
    Memory.read i (Memory.write i b m) = some b := by simp [Memory.read_write i i b m h]

theorem Memory.read_write_other {a i : Nat} (b : Byte) (m : List Host.Cell) (h : Memory.wf m) (hne : a ≠ i) :
    Memory.read a (Memory.write i b m) = Memory.read a m := by simp [Memory.read_write a i b m h, hne]

theorem Memory.mem_write {c : Host.Cell} {i : Nat} {b : Byte} {m : List Host.Cell}
    (h : c ∈ Memory.write i b m) : c = (i, b) ∨ c ∈ m := by
  induction m with
  | nil => simpa [Memory.write] using h
  | cons d rest ih =>
    obtain ⟨a', b'⟩ := d
    simp only [Memory.write] at h
    split at h
    · simpa using h
    · split at h
      · rcases List.mem_cons.1 h with h | h
        · exact .inl h
        · exact .inr (List.mem_cons_of_mem _ h)
      · rcases List.mem_cons.1 h with h | h
        · exact .inr (by simp [h])
        · rcases ih h with h | h
          · exact .inl h
          · exact .inr (List.mem_cons_of_mem _ h)

theorem Memory.wf_nil : Memory.wf [] := ⟨List.Pairwise.nil, by simp⟩

/-- Every store inside the 512 bytes keeps the canonical form. -/
theorem Memory.wf_write {i : Nat} {b : Byte} {m : List Host.Cell} (h : Memory.wf m) (hi : i < blockLen) :
    Memory.wf (Memory.write i b m) := by
  refine ⟨?_, fun c hc => ?_⟩
  · have hp := h.1
    clear h
    induction m with
    | nil => simp [Memory.write]
    | cons d rest ih =>
      obtain ⟨a', b'⟩ := d
      obtain ⟨hd, hrest⟩ := List.pairwise_cons.1 hp
      simp only [Memory.write]
      split
      · rename_i hlt
        refine List.pairwise_cons.2 ⟨fun c hc => ?_, hp⟩
        rcases List.mem_cons.1 hc with rfl | hc
        · exact hlt
        · exact Nat.lt_trans hlt (hd c hc)
      · split
        · subst_vars; exact List.pairwise_cons.2 ⟨hd, hrest⟩
        · refine List.pairwise_cons.2 ⟨fun c hc => ?_, ih hrest⟩
          rcases Memory.mem_write hc with rfl | hc
          · show a' < i; omega
          · exact hd c hc
  · rcases Memory.mem_write hc with rfl | hc
    · exact hi
    · exact h.2 c hc

/-- An index outside the buffer has no defined byte. -/
theorem Memory.read_eq_none_of_le {a : Nat} {m : List Host.Cell} (h : Memory.wf m) (ha : blockLen ≤ a) :
    Memory.read a m = none := by
  induction m with
  | nil => rfl
  | cons d rest ih =>
    obtain ⟨a', b'⟩ := d
    have : a' < blockLen := h.2 (a', b') (List.mem_cons_self ..)
    simp only [Memory.read]
    rw [if_neg (by omega), ih ⟨h.1.of_cons, fun c hc => h.2 c (List.mem_cons_of_mem _ hc)⟩]

end Sys2Proof.Machine
end

