-- ==== Sys2Proof/Laws/Words.lean ====
section
/-! SUPPORT. The fields of an operation word and the word of the fields are one another's inverse (spec/30_encoding.md R82), and
a row of spec/opcode_table.json holds of a word field by field. -/

namespace Sys2Proof

@[simp] theorem OpFields.ofWord_toWord (f : OpFields) : OpFields.ofWord f.toWord = f := by
  obtain ⟨opc, a, w⟩ := f
  have h1 : (opc ++ a ++ w : BitVec 48).extractLsb' 40 8 = opc := by
    apply BitVec.eq_of_getLsbD_eq; intro i hi
    simp only [BitVec.getLsbD_extractLsb', BitVec.getLsbD_append]
    rw [if_neg (by omega), if_neg (by omega), show 40 + i - 32 - 8 = i by omega]; simp [hi]
  have h2 : (opc ++ a ++ w : BitVec 48).extractLsb' 32 8 = a := by
    apply BitVec.eq_of_getLsbD_eq; intro i hi
    simp only [BitVec.getLsbD_extractLsb', BitVec.getLsbD_append]
    rw [if_neg (by omega), if_pos (by omega)]; simp [hi]
  have h3 : (opc ++ a ++ w : BitVec 48).extractLsb' 0 32 = w := by
    apply BitVec.eq_of_getLsbD_eq; intro i hi
    simp only [BitVec.getLsbD_extractLsb', BitVec.getLsbD_append]
    rw [if_pos (by omega)]; simp [hi]
  simp [OpFields.ofWord, OpFields.toWord, h1, h2, h3]

@[simp] theorem OpFields.toWord_ofWord (w : OpWord) : (OpFields.ofWord w).toWord = w := by
  apply BitVec.eq_of_getLsbD_eq; intro i hi
  simp only [OpFields.ofWord, OpFields.toWord, BitVec.getLsbD_append, BitVec.getLsbD_extractLsb']
  split
  · simp_all
  · split
    · rw [show 32 + (i - 32) = i by omega]; simp_all
    · rw [show 40 + (i - 32 - 8) = i by omega]; simp; omega

theorem OpFields.toWord_inj {f g : OpFields} : f.toWord = g.toWord ↔ f = g :=
  ⟨fun h => by rw [← OpFields.ofWord_toWord f, h, OpFields.ofWord_toWord], fun h => h ▸ rfl⟩

/-- A row holds of a word when it holds in each of the word's three fields. -/
theorem OpRow.holds_toWord (r : OpRow) (f : OpFields) :
    r.holds f.toWord =
      (f.opc &&& (OpFields.ofWord r.mask).opc == (OpFields.ofWord r.value).opc &&
        (f.a &&& (OpFields.ofWord r.mask).a == (OpFields.ofWord r.value).a &&
          f.w &&& (OpFields.ofWord r.mask).w == (OpFields.ofWord r.value).w)) := by
  have hand : f.toWord &&& r.mask =
      OpFields.toWord { opc := f.opc &&& (OpFields.ofWord r.mask).opc, a := f.a &&& (OpFields.ofWord r.mask).a
                        w := f.w &&& (OpFields.ofWord r.mask).w } := by
    conv_lhs => rw [← OpFields.toWord_ofWord r.mask]
    simp only [OpFields.toWord]
    apply BitVec.eq_of_getLsbD_eq; intro i hi
    simp only [BitVec.getLsbD_and, BitVec.getLsbD_append]
    split
    · rfl
    · split <;> rfl
  rw [OpRow.holds, hand, Bool.eq_iff_iff]
  conv_lhs => rw [← OpFields.toWord_ofWord r.value]
  simp only [beq_iff_eq, Bool.and_eq_true, OpFields.toWord_inj]
  cases OpFields.ofWord r.value
  simp

end Sys2Proof
end

