-- ==== Sys2Proof/Laws/PerInstr.lean ====
section
/-! SUPPORT. One lemma per constructor of `Instr`: its encoding lies in its own row of spec/opcode_table.json and in no other, and
its fields are a legal form (spec/30_encoding.md R83). -/

namespace Sys2Proof.Laws.EncodingMatchesRow

/-- The rows of the table that hold of the word of `i` are exactly the one with `i`'s mnemonic; the fields of `i` are legal. -/
def Statement (i : Instr) : Prop :=
  (opcodeTable.filter fun r => r.holds (encode i)).map OpRow.mnemonic = [i.mnemonic] ∧ i.wellFormed = true

/-- An index of six bits leaves bits 7:6 of the operand byte clear (R83). -/
theorem idx_high_bits (idx : CmdIdx) : idx.setWidth 8 &&& 0xC0#8 = 0 ∧ idx.setWidth 8 ≤ 0x3F#8 := by
  revert idx; decide

theorem send (idx : CmdIdx) (arg : Word) : Statement (.send idx arg) := by
  obtain ⟨h1, h2⟩ := idx_high_bits idx
  refine ⟨?_, ?_⟩
  · simp [opcodeTable, encode, OpRow.holds_toWord, Instr.fields, OpFields.ofWord, Instr.mnemonic, List.filter, h1]
  · simp [Instr.wellFormed, Instr.fields, OpFields.wellFormed, OpFields.sendForm, h2]

theorem resp1 : Statement .resp1 := ⟨by decide, by decide⟩

theorem resp2 : Statement .resp2 := ⟨by decide, by decide⟩

theorem resp5 : Statement .resp5 := ⟨by decide, by decide⟩

theorem rdblk (addr : Word) : Statement (.rdblk addr) := by
  refine ⟨?_, ?_⟩
  · simp [opcodeTable, encode, OpRow.holds_toWord, Instr.fields, OpFields.ofWord, Instr.mnemonic, List.filter]
  · simp [Instr.wellFormed, Instr.fields, OpFields.wellFormed, OpFields.rdblkForm]

theorem release : Statement .release := ⟨by decide, by decide⟩

theorem pwrup : Statement .pwrup := ⟨by decide, by decide⟩

end Sys2Proof.Laws.EncodingMatchesRow
end

