-- ==== Sys2Proof/Laws/State.lean ====
section
/-! SUPPORT. One lemma per field per shared update: what each operation of Machine/Ops.lean leaves in each field. -/

namespace Sys2Proof.Machine

/-! `Xchg` changes the card's stream and the records only (R36). -/

@[simp] theorem xchg_cfg (tx : Byte) (s : State) : (xchg tx s).cfg = s.cfg := rfl
@[simp] theorem xchg_phase (tx : Byte) (s : State) : (xchg tx s).phase = s.phase := rfl
@[simp] theorem xchg_cur (tx : Byte) (s : State) : (xchg tx s).cur = s.cur := rfl
@[simp] theorem xchg_cnt (tx : Byte) (s : State) : (xchg tx s).cnt = s.cnt := rfl
@[simp] theorem xchg_poll (tx : Byte) (s : State) : (xchg tx s).poll = s.poll := rfl
@[simp] theorem xchg_cs (tx : Byte) (s : State) : (xchg tx s).cs = s.cs := rfl
@[simp] theorem xchg_idx (tx : Byte) (s : State) : (xchg tx s).idx = s.idx := rfl
@[simp] theorem xchg_arg (tx : Byte) (s : State) : (xchg tx s).arg = s.arg := rfl
@[simp] theorem xchg_len (tx : Byte) (s : State) : (xchg tx s).len = s.len := rfl
@[simp] theorem xchg_resp (tx : Byte) (s : State) : (xchg tx s).resp = s.resp := rfl
@[simp] theorem xchg_rlen (tx : Byte) (s : State) : (xchg tx s).rlen = s.rlen := rfl
@[simp] theorem xchg_status (tx : Byte) (s : State) : (xchg tx s).status = s.status := rfl
@[simp] theorem xchg_token (tx : Byte) (s : State) : (xchg tx s).token = s.token := rfl
@[simp] theorem xchg_kind (tx : Byte) (s : State) : (xchg tx s).kind = s.kind := rfl
@[simp] theorem xchg_line (tx : Byte) (s : State) : (xchg tx s).line = s.line := rfl
@[simp] theorem xchg_buf (tx : Byte) (s : State) : (xchg tx s).buf = s.buf := rfl
@[simp] theorem xchg_req (tx : Byte) (s : State) : (xchg tx s).req = s.req := rfl
@[simp] theorem xchg_rst (tx : Byte) (s : State) : (xchg tx s).rst = s.rst := rfl
@[simp] theorem xchg_abandoned (tx : Byte) (s : State) : (xchg tx s).abandoned = s.abandoned := rfl
@[simp] theorem xchg_session (tx : Byte) (s : State) : (xchg tx s).session = s.session := rfl
@[simp] theorem xchg_prog (tx : Byte) (s : State) : (xchg tx s).prog = s.prog := rfl
@[simp] theorem xchg_iter (tx : Byte) (s : State) : (xchg tx s).iter = s.iter := rfl
@[simp] theorem xchg_hostResult (tx : Byte) (s : State) : (xchg tx s).hostResult = s.hostResult := rfl
@[simp] theorem xchg_card (tx : Byte) (s : State) : (xchg tx s).card = s.card.tail := rfl
@[simp] theorem xchg_xchgs (tx : Byte) (s : State) : (xchg tx s).xchgs = s.xchgs + 1 := rfl
@[simp] theorem xchg_bufEpoch (tx : Byte) (s : State) : (xchg tx s).bufEpoch = s.bufEpoch := rfl
@[simp] theorem xchg_respKind (tx : Byte) (s : State) : (xchg tx s).respKind = s.respKind := rfl
@[simp] theorem xchg_calls (tx : Byte) (s : State) : (xchg tx s).calls = s.calls := rfl
@[simp] theorem xchg_trace (tx : Byte) (s : State) : (xchg tx s).trace = .xchg tx (s.rx 0) :: s.trace := rfl
@[simp] theorem xchg_diag (tx : Byte) (s : State) : (xchg tx s).diag = .byte tx (s.rx 0) :: s.diag := rfl
@[simp] theorem xchg_results (tx : Byte) (s : State) : (xchg tx s).results = s.results := rfl

/-! `Select()` sets `cs` and the line (R24). -/

@[simp] theorem select_cfg (s : State) : (select s).cfg = s.cfg := rfl
@[simp] theorem select_phase (s : State) : (select s).phase = s.phase := rfl
@[simp] theorem select_cur (s : State) : (select s).cur = s.cur := rfl
@[simp] theorem select_cnt (s : State) : (select s).cnt = s.cnt := rfl
@[simp] theorem select_poll (s : State) : (select s).poll = s.poll := rfl
@[simp] theorem select_cs (s : State) : (select s).cs = true := rfl
@[simp] theorem select_idx (s : State) : (select s).idx = s.idx := rfl
@[simp] theorem select_arg (s : State) : (select s).arg = s.arg := rfl
@[simp] theorem select_len (s : State) : (select s).len = s.len := rfl
@[simp] theorem select_resp (s : State) : (select s).resp = s.resp := rfl
@[simp] theorem select_rlen (s : State) : (select s).rlen = s.rlen := rfl
@[simp] theorem select_status (s : State) : (select s).status = s.status := rfl
@[simp] theorem select_token (s : State) : (select s).token = s.token := rfl
@[simp] theorem select_kind (s : State) : (select s).kind = s.kind := rfl
@[simp] theorem select_line (s : State) : (select s).line = true := rfl
@[simp] theorem select_buf (s : State) : (select s).buf = s.buf := rfl
@[simp] theorem select_req (s : State) : (select s).req = s.req := rfl
@[simp] theorem select_rst (s : State) : (select s).rst = s.rst := rfl
@[simp] theorem select_abandoned (s : State) : (select s).abandoned = s.abandoned := rfl
@[simp] theorem select_session (s : State) : (select s).session = s.session := rfl
@[simp] theorem select_prog (s : State) : (select s).prog = s.prog := rfl
@[simp] theorem select_iter (s : State) : (select s).iter = s.iter := rfl
@[simp] theorem select_hostResult (s : State) : (select s).hostResult = s.hostResult := rfl
@[simp] theorem select_card (s : State) : (select s).card = s.card := rfl
@[simp] theorem select_xchgs (s : State) : (select s).xchgs = s.xchgs := rfl
@[simp] theorem select_bufEpoch (s : State) : (select s).bufEpoch = s.bufEpoch := rfl
@[simp] theorem select_respKind (s : State) : (select s).respKind = s.respKind := rfl
@[simp] theorem select_calls (s : State) : (select s).calls = s.calls := rfl
@[simp] theorem select_trace (s : State) : (select s).trace = .select :: s.trace := rfl
@[simp] theorem select_diag (s : State) : (select s).diag = s.diag := rfl
@[simp] theorem select_results (s : State) : (select s).results = s.results := rfl

/-! `Deselect()` clears `cs` and the line (R24). -/

@[simp] theorem deselect_cfg (s : State) : (deselect s).cfg = s.cfg := rfl
@[simp] theorem deselect_phase (s : State) : (deselect s).phase = s.phase := rfl
@[simp] theorem deselect_cur (s : State) : (deselect s).cur = s.cur := rfl
@[simp] theorem deselect_cnt (s : State) : (deselect s).cnt = s.cnt := rfl
@[simp] theorem deselect_poll (s : State) : (deselect s).poll = s.poll := rfl
@[simp] theorem deselect_cs (s : State) : (deselect s).cs = false := rfl
@[simp] theorem deselect_idx (s : State) : (deselect s).idx = s.idx := rfl
@[simp] theorem deselect_arg (s : State) : (deselect s).arg = s.arg := rfl
@[simp] theorem deselect_len (s : State) : (deselect s).len = s.len := rfl
@[simp] theorem deselect_resp (s : State) : (deselect s).resp = s.resp := rfl
@[simp] theorem deselect_rlen (s : State) : (deselect s).rlen = s.rlen := rfl
@[simp] theorem deselect_status (s : State) : (deselect s).status = s.status := rfl
@[simp] theorem deselect_token (s : State) : (deselect s).token = s.token := rfl
@[simp] theorem deselect_kind (s : State) : (deselect s).kind = s.kind := rfl
@[simp] theorem deselect_line (s : State) : (deselect s).line = false := rfl
@[simp] theorem deselect_buf (s : State) : (deselect s).buf = s.buf := rfl
@[simp] theorem deselect_req (s : State) : (deselect s).req = s.req := rfl
@[simp] theorem deselect_rst (s : State) : (deselect s).rst = s.rst := rfl
@[simp] theorem deselect_abandoned (s : State) : (deselect s).abandoned = s.abandoned := rfl
@[simp] theorem deselect_session (s : State) : (deselect s).session = s.session := rfl
@[simp] theorem deselect_prog (s : State) : (deselect s).prog = s.prog := rfl
@[simp] theorem deselect_iter (s : State) : (deselect s).iter = s.iter := rfl
@[simp] theorem deselect_hostResult (s : State) : (deselect s).hostResult = s.hostResult := rfl
@[simp] theorem deselect_card (s : State) : (deselect s).card = s.card := rfl
@[simp] theorem deselect_xchgs (s : State) : (deselect s).xchgs = s.xchgs := rfl
@[simp] theorem deselect_bufEpoch (s : State) : (deselect s).bufEpoch = s.bufEpoch := rfl
@[simp] theorem deselect_respKind (s : State) : (deselect s).respKind = s.respKind := rfl
@[simp] theorem deselect_calls (s : State) : (deselect s).calls = s.calls := rfl
@[simp] theorem deselect_trace (s : State) : (deselect s).trace = .deselect :: s.trace := rfl
@[simp] theorem deselect_diag (s : State) : (deselect s).diag = s.diag := rfl
@[simp] theorem deselect_results (s : State) : (deselect s).results = s.results := rfl

/-! `MemWrite` changes the buffer only (R58). -/

@[simp] theorem memWrite_cfg (i : Nat) (b : Byte) (s : State) : (memWrite i b s).cfg = s.cfg := rfl
@[simp] theorem memWrite_phase (i : Nat) (b : Byte) (s : State) : (memWrite i b s).phase = s.phase := rfl
@[simp] theorem memWrite_cur (i : Nat) (b : Byte) (s : State) : (memWrite i b s).cur = s.cur := rfl
@[simp] theorem memWrite_cnt (i : Nat) (b : Byte) (s : State) : (memWrite i b s).cnt = s.cnt := rfl
@[simp] theorem memWrite_poll (i : Nat) (b : Byte) (s : State) : (memWrite i b s).poll = s.poll := rfl
@[simp] theorem memWrite_cs (i : Nat) (b : Byte) (s : State) : (memWrite i b s).cs = s.cs := rfl
@[simp] theorem memWrite_idx (i : Nat) (b : Byte) (s : State) : (memWrite i b s).idx = s.idx := rfl
@[simp] theorem memWrite_arg (i : Nat) (b : Byte) (s : State) : (memWrite i b s).arg = s.arg := rfl
@[simp] theorem memWrite_len (i : Nat) (b : Byte) (s : State) : (memWrite i b s).len = s.len := rfl
@[simp] theorem memWrite_resp (i : Nat) (b : Byte) (s : State) : (memWrite i b s).resp = s.resp := rfl
@[simp] theorem memWrite_rlen (i : Nat) (b : Byte) (s : State) : (memWrite i b s).rlen = s.rlen := rfl
@[simp] theorem memWrite_status (i : Nat) (b : Byte) (s : State) : (memWrite i b s).status = s.status := rfl
@[simp] theorem memWrite_token (i : Nat) (b : Byte) (s : State) : (memWrite i b s).token = s.token := rfl
@[simp] theorem memWrite_kind (i : Nat) (b : Byte) (s : State) : (memWrite i b s).kind = s.kind := rfl
@[simp] theorem memWrite_line (i : Nat) (b : Byte) (s : State) : (memWrite i b s).line = s.line := rfl
@[simp] theorem memWrite_buf (i : Nat) (b : Byte) (s : State) : (memWrite i b s).buf = Memory.write i b s.buf := rfl
@[simp] theorem memWrite_req (i : Nat) (b : Byte) (s : State) : (memWrite i b s).req = s.req := rfl
@[simp] theorem memWrite_rst (i : Nat) (b : Byte) (s : State) : (memWrite i b s).rst = s.rst := rfl
@[simp] theorem memWrite_abandoned (i : Nat) (b : Byte) (s : State) : (memWrite i b s).abandoned = s.abandoned := rfl
@[simp] theorem memWrite_session (i : Nat) (b : Byte) (s : State) : (memWrite i b s).session = s.session := rfl
@[simp] theorem memWrite_prog (i : Nat) (b : Byte) (s : State) : (memWrite i b s).prog = s.prog := rfl
@[simp] theorem memWrite_iter (i : Nat) (b : Byte) (s : State) : (memWrite i b s).iter = s.iter := rfl
@[simp] theorem memWrite_hostResult (i : Nat) (b : Byte) (s : State) : (memWrite i b s).hostResult = s.hostResult := rfl
@[simp] theorem memWrite_card (i : Nat) (b : Byte) (s : State) : (memWrite i b s).card = s.card := rfl
@[simp] theorem memWrite_xchgs (i : Nat) (b : Byte) (s : State) : (memWrite i b s).xchgs = s.xchgs := rfl
@[simp] theorem memWrite_bufEpoch (i : Nat) (b : Byte) (s : State) : (memWrite i b s).bufEpoch = s.bufEpoch := rfl
@[simp] theorem memWrite_respKind (i : Nat) (b : Byte) (s : State) : (memWrite i b s).respKind = s.respKind := rfl
@[simp] theorem memWrite_calls (i : Nat) (b : Byte) (s : State) : (memWrite i b s).calls = s.calls := rfl
@[simp] theorem memWrite_trace (i : Nat) (b : Byte) (s : State) : (memWrite i b s).trace = .memWrite i b :: s.trace := rfl
@[simp] theorem memWrite_diag (i : Nat) (b : Byte) (s : State) : (memWrite i b s).diag = s.diag := rfl
@[simp] theorem memWrite_results (i : Nat) (b : Byte) (s : State) : (memWrite i b s).results = s.results := rfl

/-! An undefined buffer (R52). -/

@[simp] theorem bufUndefined_cfg (s : State) : (bufUndefined s).cfg = s.cfg := rfl
@[simp] theorem bufUndefined_phase (s : State) : (bufUndefined s).phase = s.phase := rfl
@[simp] theorem bufUndefined_cur (s : State) : (bufUndefined s).cur = s.cur := rfl
@[simp] theorem bufUndefined_cnt (s : State) : (bufUndefined s).cnt = s.cnt := rfl
@[simp] theorem bufUndefined_poll (s : State) : (bufUndefined s).poll = s.poll := rfl
@[simp] theorem bufUndefined_cs (s : State) : (bufUndefined s).cs = s.cs := rfl
@[simp] theorem bufUndefined_idx (s : State) : (bufUndefined s).idx = s.idx := rfl
@[simp] theorem bufUndefined_arg (s : State) : (bufUndefined s).arg = s.arg := rfl
@[simp] theorem bufUndefined_len (s : State) : (bufUndefined s).len = s.len := rfl
@[simp] theorem bufUndefined_resp (s : State) : (bufUndefined s).resp = s.resp := rfl
@[simp] theorem bufUndefined_rlen (s : State) : (bufUndefined s).rlen = s.rlen := rfl
@[simp] theorem bufUndefined_status (s : State) : (bufUndefined s).status = s.status := rfl
@[simp] theorem bufUndefined_token (s : State) : (bufUndefined s).token = s.token := rfl
@[simp] theorem bufUndefined_kind (s : State) : (bufUndefined s).kind = s.kind := rfl
@[simp] theorem bufUndefined_line (s : State) : (bufUndefined s).line = s.line := rfl
@[simp] theorem bufUndefined_buf (s : State) : (bufUndefined s).buf = [] := rfl
@[simp] theorem bufUndefined_req (s : State) : (bufUndefined s).req = s.req := rfl
@[simp] theorem bufUndefined_rst (s : State) : (bufUndefined s).rst = s.rst := rfl
@[simp] theorem bufUndefined_abandoned (s : State) : (bufUndefined s).abandoned = s.abandoned := rfl
@[simp] theorem bufUndefined_session (s : State) : (bufUndefined s).session = s.session := rfl
@[simp] theorem bufUndefined_prog (s : State) : (bufUndefined s).prog = s.prog := rfl
@[simp] theorem bufUndefined_iter (s : State) : (bufUndefined s).iter = s.iter := rfl
@[simp] theorem bufUndefined_hostResult (s : State) : (bufUndefined s).hostResult = s.hostResult := rfl
@[simp] theorem bufUndefined_card (s : State) : (bufUndefined s).card = s.card := rfl
@[simp] theorem bufUndefined_xchgs (s : State) : (bufUndefined s).xchgs = s.xchgs := rfl
@[simp] theorem bufUndefined_bufEpoch (s : State) : (bufUndefined s).bufEpoch = s.bufEpoch + 1 := rfl
@[simp] theorem bufUndefined_respKind (s : State) : (bufUndefined s).respKind = s.respKind := rfl
@[simp] theorem bufUndefined_calls (s : State) : (bufUndefined s).calls = s.calls := rfl
@[simp] theorem bufUndefined_trace (s : State) : (bufUndefined s).trace = s.trace := rfl
@[simp] theorem bufUndefined_diag (s : State) : (bufUndefined s).diag = s.diag := rfl
@[simp] theorem bufUndefined_results (s : State) : (bufUndefined s).results = s.results := rfl

/-! `Complete(k)` (R31). -/

@[simp] theorem complete_cfg (k : Kind) (s : State) : (complete k s).cfg = s.cfg := rfl
@[simp] theorem complete_phase (k : Kind) (s : State) : (complete k s).phase = .idle := rfl
@[simp] theorem complete_cur (k : Kind) (s : State) : (complete k s).cur = .none := rfl
@[simp] theorem complete_cnt (k : Kind) (s : State) : (complete k s).cnt = s.cnt := rfl
@[simp] theorem complete_poll (k : Kind) (s : State) : (complete k s).poll = s.poll := rfl
@[simp] theorem complete_cs (k : Kind) (s : State) : (complete k s).cs = s.cs := rfl
@[simp] theorem complete_idx (k : Kind) (s : State) : (complete k s).idx = s.idx := rfl
@[simp] theorem complete_arg (k : Kind) (s : State) : (complete k s).arg = s.arg := rfl
@[simp] theorem complete_len (k : Kind) (s : State) : (complete k s).len = s.len := rfl
@[simp] theorem complete_resp (k : Kind) (s : State) : (complete k s).resp = s.resp := rfl
@[simp] theorem complete_rlen (k : Kind) (s : State) : (complete k s).rlen = s.rlen := rfl
@[simp] theorem complete_status (k : Kind) (s : State) : (complete k s).status = s.status := rfl
@[simp] theorem complete_token (k : Kind) (s : State) : (complete k s).token = s.token := rfl
@[simp] theorem complete_kind (k : Kind) (s : State) : (complete k s).kind = k := rfl
@[simp] theorem complete_line (k : Kind) (s : State) : (complete k s).line = s.line := rfl
@[simp] theorem complete_buf (k : Kind) (s : State) : (complete k s).buf = s.buf := rfl
@[simp] theorem complete_req (k : Kind) (s : State) : (complete k s).req = s.req := rfl
@[simp] theorem complete_rst (k : Kind) (s : State) : (complete k s).rst = s.rst := rfl
@[simp] theorem complete_abandoned (k : Kind) (s : State) : (complete k s).abandoned = false := rfl
@[simp] theorem complete_session (k : Kind) (s : State) : (complete k s).session = s.session := rfl
@[simp] theorem complete_prog (k : Kind) (s : State) : (complete k s).prog = s.prog := rfl
@[simp] theorem complete_iter (k : Kind) (s : State) : (complete k s).iter = s.iter := rfl
@[simp] theorem complete_hostResult (k : Kind) (s : State) : (complete k s).hostResult = s.hostResult := rfl
@[simp] theorem complete_card (k : Kind) (s : State) : (complete k s).card = s.card := rfl
@[simp] theorem complete_xchgs (k : Kind) (s : State) : (complete k s).xchgs = s.xchgs := rfl
@[simp] theorem complete_bufEpoch (k : Kind) (s : State) : (complete k s).bufEpoch = s.bufEpoch := rfl
@[simp] theorem complete_respKind (k : Kind) (s : State) : (complete k s).respKind = s.respKind := rfl
@[simp] theorem complete_calls (k : Kind) (s : State) : (complete k s).calls = s.calls := rfl
@[simp] theorem complete_trace (k : Kind) (s : State) : (complete k s).trace = s.trace := rfl
@[simp] theorem complete_diag (k : Kind) (s : State) : (complete k s).diag = s.diag := rfl
@[simp] theorem complete_results (k : Kind) (s : State) : (complete k s).results = k :: s.results := rfl

/-! `Complete(k)` of a RESP (R29, R31). -/

@[simp] theorem completeResp_cfg (k : Kind) (s : State) : (completeResp k s).cfg = s.cfg := rfl
@[simp] theorem completeResp_phase (k : Kind) (s : State) : (completeResp k s).phase = .idle := rfl
@[simp] theorem completeResp_cur (k : Kind) (s : State) : (completeResp k s).cur = .none := rfl
@[simp] theorem completeResp_cnt (k : Kind) (s : State) : (completeResp k s).cnt = s.cnt := rfl
@[simp] theorem completeResp_poll (k : Kind) (s : State) : (completeResp k s).poll = s.poll := rfl
@[simp] theorem completeResp_cs (k : Kind) (s : State) : (completeResp k s).cs = s.cs := rfl
@[simp] theorem completeResp_idx (k : Kind) (s : State) : (completeResp k s).idx = s.idx := rfl
@[simp] theorem completeResp_arg (k : Kind) (s : State) : (completeResp k s).arg = s.arg := rfl
@[simp] theorem completeResp_len (k : Kind) (s : State) : (completeResp k s).len = s.len := rfl
@[simp] theorem completeResp_resp (k : Kind) (s : State) : (completeResp k s).resp = s.resp := rfl
@[simp] theorem completeResp_rlen (k : Kind) (s : State) : (completeResp k s).rlen = s.rlen := rfl
@[simp] theorem completeResp_status (k : Kind) (s : State) : (completeResp k s).status = s.status := rfl
@[simp] theorem completeResp_token (k : Kind) (s : State) : (completeResp k s).token = s.token := rfl
@[simp] theorem completeResp_kind (k : Kind) (s : State) : (completeResp k s).kind = k := rfl
@[simp] theorem completeResp_line (k : Kind) (s : State) : (completeResp k s).line = s.line := rfl
@[simp] theorem completeResp_buf (k : Kind) (s : State) : (completeResp k s).buf = s.buf := rfl
@[simp] theorem completeResp_req (k : Kind) (s : State) : (completeResp k s).req = s.req := rfl
@[simp] theorem completeResp_rst (k : Kind) (s : State) : (completeResp k s).rst = s.rst := rfl
@[simp] theorem completeResp_abandoned (k : Kind) (s : State) : (completeResp k s).abandoned = false := rfl
@[simp] theorem completeResp_session (k : Kind) (s : State) : (completeResp k s).session = s.session := rfl
@[simp] theorem completeResp_prog (k : Kind) (s : State) : (completeResp k s).prog = s.prog := rfl
@[simp] theorem completeResp_iter (k : Kind) (s : State) : (completeResp k s).iter = s.iter := rfl
@[simp] theorem completeResp_hostResult (k : Kind) (s : State) : (completeResp k s).hostResult = s.hostResult := rfl
@[simp] theorem completeResp_card (k : Kind) (s : State) : (completeResp k s).card = s.card := rfl
@[simp] theorem completeResp_xchgs (k : Kind) (s : State) : (completeResp k s).xchgs = s.xchgs := rfl
@[simp] theorem completeResp_bufEpoch (k : Kind) (s : State) : (completeResp k s).bufEpoch = s.bufEpoch := rfl
@[simp] theorem completeResp_respKind (k : Kind) (s : State) : (completeResp k s).respKind = s.respKind := rfl
@[simp] theorem completeResp_calls (k : Kind) (s : State) : (completeResp k s).calls = s.calls := rfl
@[simp] theorem completeResp_trace (k : Kind) (s : State) : (completeResp k s).trace = s.trace := rfl
@[simp] theorem completeResp_diag (k : Kind) (s : State) : (completeResp k s).diag = .resp (s.resp.toList.take s.rlen.toNat) :: s.diag := rfl
@[simp] theorem completeResp_results (k : Kind) (s : State) : (completeResp k s).results = k :: s.results := rfl

/-! `raise k` changes `KIND` and nothing else (R30). -/

@[simp] theorem raise_cfg (k : Kind) (s : State) : (raise k s).cfg = s.cfg := rfl
@[simp] theorem raise_phase (k : Kind) (s : State) : (raise k s).phase = s.phase := rfl
@[simp] theorem raise_cur (k : Kind) (s : State) : (raise k s).cur = s.cur := rfl
@[simp] theorem raise_cnt (k : Kind) (s : State) : (raise k s).cnt = s.cnt := rfl
@[simp] theorem raise_poll (k : Kind) (s : State) : (raise k s).poll = s.poll := rfl
@[simp] theorem raise_cs (k : Kind) (s : State) : (raise k s).cs = s.cs := rfl
@[simp] theorem raise_idx (k : Kind) (s : State) : (raise k s).idx = s.idx := rfl
@[simp] theorem raise_arg (k : Kind) (s : State) : (raise k s).arg = s.arg := rfl
@[simp] theorem raise_len (k : Kind) (s : State) : (raise k s).len = s.len := rfl
@[simp] theorem raise_resp (k : Kind) (s : State) : (raise k s).resp = s.resp := rfl
@[simp] theorem raise_rlen (k : Kind) (s : State) : (raise k s).rlen = s.rlen := rfl
@[simp] theorem raise_status (k : Kind) (s : State) : (raise k s).status = s.status := rfl
@[simp] theorem raise_token (k : Kind) (s : State) : (raise k s).token = s.token := rfl
@[simp] theorem raise_kind (k : Kind) (s : State) : (raise k s).kind = k := rfl
@[simp] theorem raise_line (k : Kind) (s : State) : (raise k s).line = s.line := rfl
@[simp] theorem raise_buf (k : Kind) (s : State) : (raise k s).buf = s.buf := rfl
@[simp] theorem raise_req (k : Kind) (s : State) : (raise k s).req = s.req := rfl
@[simp] theorem raise_rst (k : Kind) (s : State) : (raise k s).rst = s.rst := rfl
@[simp] theorem raise_abandoned (k : Kind) (s : State) : (raise k s).abandoned = false := rfl
@[simp] theorem raise_session (k : Kind) (s : State) : (raise k s).session = s.session := rfl
@[simp] theorem raise_prog (k : Kind) (s : State) : (raise k s).prog = s.prog := rfl
@[simp] theorem raise_iter (k : Kind) (s : State) : (raise k s).iter = s.iter := rfl
@[simp] theorem raise_hostResult (k : Kind) (s : State) : (raise k s).hostResult = s.hostResult := rfl
@[simp] theorem raise_card (k : Kind) (s : State) : (raise k s).card = s.card := rfl
@[simp] theorem raise_xchgs (k : Kind) (s : State) : (raise k s).xchgs = s.xchgs := rfl
@[simp] theorem raise_bufEpoch (k : Kind) (s : State) : (raise k s).bufEpoch = s.bufEpoch := rfl
@[simp] theorem raise_respKind (k : Kind) (s : State) : (raise k s).respKind = s.respKind := rfl
@[simp] theorem raise_calls (k : Kind) (s : State) : (raise k s).calls = s.calls := rfl
@[simp] theorem raise_trace (k : Kind) (s : State) : (raise k s).trace = s.trace := rfl
@[simp] theorem raise_diag (k : Kind) (s : State) : (raise k s).diag = s.diag := rfl
@[simp] theorem raise_results (k : Kind) (s : State) : (raise k s).results = k :: s.results := rfl

/-! The request is taken from the port (R40). -/

@[simp] theorem takeReq_cfg (s : State) : (takeReq s).cfg = s.cfg := rfl
@[simp] theorem takeReq_phase (s : State) : (takeReq s).phase = s.phase := rfl
@[simp] theorem takeReq_cur (s : State) : (takeReq s).cur = s.cur := rfl
@[simp] theorem takeReq_cnt (s : State) : (takeReq s).cnt = s.cnt := rfl
@[simp] theorem takeReq_poll (s : State) : (takeReq s).poll = s.poll := rfl
@[simp] theorem takeReq_cs (s : State) : (takeReq s).cs = s.cs := rfl
@[simp] theorem takeReq_idx (s : State) : (takeReq s).idx = s.idx := rfl
@[simp] theorem takeReq_arg (s : State) : (takeReq s).arg = s.arg := rfl
@[simp] theorem takeReq_len (s : State) : (takeReq s).len = s.len := rfl
@[simp] theorem takeReq_resp (s : State) : (takeReq s).resp = s.resp := rfl
@[simp] theorem takeReq_rlen (s : State) : (takeReq s).rlen = s.rlen := rfl
@[simp] theorem takeReq_status (s : State) : (takeReq s).status = s.status := rfl
@[simp] theorem takeReq_token (s : State) : (takeReq s).token = s.token := rfl
@[simp] theorem takeReq_kind (s : State) : (takeReq s).kind = s.kind := rfl
@[simp] theorem takeReq_line (s : State) : (takeReq s).line = s.line := rfl
@[simp] theorem takeReq_buf (s : State) : (takeReq s).buf = s.buf := rfl
@[simp] theorem takeReq_req (s : State) : (takeReq s).req = none := rfl
@[simp] theorem takeReq_rst (s : State) : (takeReq s).rst = s.rst := rfl
@[simp] theorem takeReq_abandoned (s : State) : (takeReq s).abandoned = s.abandoned := rfl
@[simp] theorem takeReq_session (s : State) : (takeReq s).session = s.session := rfl
@[simp] theorem takeReq_prog (s : State) : (takeReq s).prog = s.prog := rfl
@[simp] theorem takeReq_iter (s : State) : (takeReq s).iter = s.iter := rfl
@[simp] theorem takeReq_hostResult (s : State) : (takeReq s).hostResult = s.hostResult := rfl
@[simp] theorem takeReq_card (s : State) : (takeReq s).card = s.card := rfl
@[simp] theorem takeReq_xchgs (s : State) : (takeReq s).xchgs = s.xchgs := rfl
@[simp] theorem takeReq_bufEpoch (s : State) : (takeReq s).bufEpoch = s.bufEpoch := rfl
@[simp] theorem takeReq_respKind (s : State) : (takeReq s).respKind = s.respKind := rfl
@[simp] theorem takeReq_calls (s : State) : (takeReq s).calls = s.calls := rfl
@[simp] theorem takeReq_trace (s : State) : (takeReq s).trace = s.trace := rfl
@[simp] theorem takeReq_diag (s : State) : (takeReq s).diag = s.diag := rfl
@[simp] theorem takeReq_results (s : State) : (takeReq s).results = s.results := rfl

/-! What a reset leaves of an operation it abandons (R221, R239). -/

@[simp] theorem resetStep_abandoned (s : State) :
    (resetStep s).abandoned = (s.abandoned || decide (s.phase ≠ .idle) || s.req.isSome) := rfl

end Sys2Proof.Machine
end

