-- ==== Sys2Proof/Laws/Rows.lean ====
section
/-! SUPPORT. Once for every row of the phase table (spec/10_state.md R28) and for acceptance (R30): everything it can answer. Later
proofs cite these and do not unfold the rows. -/

namespace Sys2Proof.Machine

/-- The card's next bytes after an exchange are those after the one it answered (R34, R58). -/
@[simp] theorem rx_xchg (tx : Byte) (s : State) (n : Nat) : (xchg tx s).rx n = s.rx (n + 1) := by
  simp only [State.rx, xchg, Nat.add_assoc, Nat.add_comm 1 n]
  cases s.card <;> simp

theorem accept_cases {breach : Bool} {l s t : State} (h : accept breach l s = .next t) :
    (s.phase ≠ .idle ∧ t = s) ∨ (s.phase = .idle ∧ breach = true ∧ t = raise .protocolViolation s) ∨
      (s.phase = .idle ∧ breach = false ∧ t = l) := by
  unfold accept at h
  split at h
  · exact .inl ⟨‹_›, by cases h; rfl⟩
  · split at h
    · exact .inr (.inl ⟨by simp_all, ‹_›, by cases h; rfl⟩)
    · exact .inr (.inr ⟨by simp_all, by simp_all, by cases h; rfl⟩)

theorem cfSel_cases {s t : State} (h : cfSel s = .next t) : t = { select s with cnt := 0, phase := .cfTx } := by
  cases h; rfl

theorem cfTx_cases {s t : State} (h : cfTx s = .next t) :
    ∃ tx, frameByte s.cfg.cksumMode s.idx s.arg s.cnt.toNat = some tx ∧
      ((s.cnt.toNat < 5 ∧ t = { xchg tx s with cnt := s.cnt + 1 }) ∨
       (¬ s.cnt.toNat < 5 ∧ s.cur = .send ∧
         t = complete .ok { xchg tx s with diag := .cmd s.idx s.arg :: (xchg tx s).diag }) ∨
       (¬ s.cnt.toNat < 5 ∧ s.cur = .rdblk ∧
         t = { xchg tx s with diag := .cmd s.idx s.arg :: (xchg tx s).diag, poll := 0, phase := .brStatus })) := by
  unfold cfTx at h
  split at h
  · cases h
  · rename_i tx htx
    refine ⟨tx, htx, ?_⟩
    split at h
    · exact .inl ⟨‹_›, by cases h; rfl⟩
    · split at h
      · exact .inr (.inl ⟨‹_›, ‹_›, by cases h; rfl⟩)
      · split at h
        · exact .inr (.inr ⟨‹_›, ‹_›, by cases h; rfl⟩)
        · cases h

theorem rrSkip_cases {s t : State} (h : rrSkip s = .next t) :
    (limitReached s.cfg.pollLimit s.poll = true ∧ t = completeResp .timeout s) ∨
    (limitReached s.cfg.pollLimit s.poll = false ∧ isFiller (s.rx 0) = true ∧
      t = { xchg fill s with poll := s.poll + 1 }) ∨
    (limitReached s.cfg.pollLimit s.poll = false ∧ isFiller (s.rx 0) = false ∧ s.len = 1 ∧
      t = completeResp .ok { xchg fill s with poll := s.poll + 1, resp := s.resp.set 0 (s.rx 0), rlen := 1 }) ∨
    (limitReached s.cfg.pollLimit s.poll = false ∧ isFiller (s.rx 0) = false ∧ s.len ≠ 1 ∧
      t = { xchg fill s with
            poll := s.poll + 1, resp := s.resp.set 0 (s.rx 0), rlen := 1, cnt := 1, phase := .rrRest }) := by
  rcases h1 : limitReached s.cfg.pollLimit s.poll with _ | _
  · rcases h2 : isFiller (s.rx 0) with _ | _
    · by_cases h3 : s.len = 1
      · simp only [rrSkip, h1, h2, if_pos h3, ↓reduceIte, Bool.false_eq_true, Host.Outcome.next.injEq] at h
        exact .inr (.inr (.inl ⟨rfl, rfl, h3, h.symm⟩))
      · simp only [rrSkip, h1, h2, if_neg h3, ↓reduceIte, Bool.false_eq_true, Host.Outcome.next.injEq] at h
        exact .inr (.inr (.inr ⟨rfl, rfl, h3, h.symm⟩))
    · simp only [rrSkip, h1, h2, ↓reduceIte, Bool.false_eq_true, Host.Outcome.next.injEq] at h
      exact .inr (.inl ⟨rfl, rfl, h.symm⟩)
  · simp only [rrSkip, h1, ↓reduceIte, Host.Outcome.next.injEq] at h
    exact .inl ⟨rfl, h.symm⟩

theorem rrRest_cases {s t : State} (h : rrRest s = .next t) :
    ∃ hc : s.cnt.toNat < 5,
      (s.cnt.toNat + 1 = s.len.toNat ∧
        t = completeResp .ok { xchg fill s with
              resp := s.resp.set s.cnt.toNat (s.rx 0) hc, rlen := BitVec.ofNat 3 (s.cnt.toNat + 1) }) ∨
      (s.cnt.toNat + 1 ≠ s.len.toNat ∧
        t = { xchg fill s with
              resp := s.resp.set s.cnt.toNat (s.rx 0) hc, rlen := BitVec.ofNat 3 (s.cnt.toNat + 1), cnt := s.cnt + 1 }) := by
  unfold rrRest at h
  split at h
  · refine ⟨‹_›, ?_⟩
    simp only at h
    split at h
    · exact .inl ⟨‹_›, by cases h; rfl⟩
    · exact .inr ⟨‹_›, by cases h; rfl⟩
  · cases h

theorem brStatus_cases {s t : State} (h : brStatus s = .next t) :
    (limitReached s.cfg.pollLimit s.poll = true ∧ t = { s with kind := .timeout, phase := .brDesel }) ∨
    (limitReached s.cfg.pollLimit s.poll = false ∧ isFiller (s.rx 0) = true ∧
      t = { xchg fill s with poll := s.poll + 1 }) ∨
    (limitReached s.cfg.pollLimit s.poll = false ∧ isFiller (s.rx 0) = false ∧ isErrorStatus (s.rx 0) = true ∧
      t = { xchg fill s with poll := s.poll + 1, status := s.rx 0, kind := .operationFailed, phase := .brDesel }) ∨
    (limitReached s.cfg.pollLimit s.poll = false ∧ isFiller (s.rx 0) = false ∧ isErrorStatus (s.rx 0) = false ∧
      t = { xchg fill s with poll := 0, status := s.rx 0, phase := .brToken }) := by
  rcases h1 : limitReached s.cfg.pollLimit s.poll with _ | _
  · rcases h2 : isFiller (s.rx 0) with _ | _
    · rcases h3 : isErrorStatus (s.rx 0) with _ | _ <;>
        simp only [brStatus, h1, h2, h3, ↓reduceIte, Bool.false_eq_true, Host.Outcome.next.injEq] at h
      · exact .inr (.inr (.inr ⟨rfl, rfl, rfl, h.symm⟩))
      · exact .inr (.inr (.inl ⟨rfl, rfl, rfl, h.symm⟩))
    · simp only [brStatus, h1, h2, ↓reduceIte, Bool.false_eq_true, Host.Outcome.next.injEq] at h
      exact .inr (.inl ⟨rfl, rfl, h.symm⟩)
  · simp only [brStatus, h1, ↓reduceIte, Host.Outcome.next.injEq] at h
    exact .inl ⟨rfl, h.symm⟩

theorem brToken_cases {s t : State} (h : brToken s = .next t) :
    (limitReached s.cfg.pollLimit s.poll = true ∧ t = { s with kind := .timeout, phase := .brDesel }) ∨
    (limitReached s.cfg.pollLimit s.poll = false ∧ isToken (s.rx 0) = false ∧
      t = { xchg fill s with poll := s.poll + 1 }) ∨
    (limitReached s.cfg.pollLimit s.poll = false ∧ isToken (s.rx 0) = true ∧ isStartToken (s.rx 0) = true ∧
      t = { xchg fill s with poll := s.poll + 1, token := s.rx 0, cnt := 0, phase := .brData }) ∨
    (limitReached s.cfg.pollLimit s.poll = false ∧ isToken (s.rx 0) = true ∧ isStartToken (s.rx 0) = false ∧
      t = { xchg fill s with poll := s.poll + 1, token := s.rx 0, kind := .tokenError, phase := .brDesel }) := by
  rcases h1 : limitReached s.cfg.pollLimit s.poll with _ | _
  · rcases h2 : isToken (s.rx 0) with _ | _
    · simp only [brToken, h1, h2, ↓reduceIte, Bool.false_eq_true, Host.Outcome.next.injEq] at h
      exact .inr (.inl ⟨rfl, rfl, h.symm⟩)
    · rcases h3 : isStartToken (s.rx 0) with _ | _ <;>
        simp only [brToken, h1, h2, h3, ↓reduceIte, Bool.false_eq_true, Host.Outcome.next.injEq] at h
      · exact .inr (.inr (.inr ⟨rfl, rfl, rfl, h.symm⟩))
      · exact .inr (.inr (.inl ⟨rfl, rfl, rfl, h.symm⟩))
  · simp only [brToken, h1, ↓reduceIte, Host.Outcome.next.injEq] at h
    exact .inl ⟨rfl, h.symm⟩

theorem brData_cases {s t : State} (h : brData s = .next t) :
    s.cnt.toNat < blockLen ∧
      ((s.cnt = 511 ∧ t = { memWrite s.cnt.toNat (s.rx 0) (xchg fill s) with cnt := 0, phase := .brCrc }) ∨
       (s.cnt ≠ 511 ∧ t = { memWrite s.cnt.toNat (s.rx 0) (xchg fill s) with cnt := s.cnt + 1 })) := by
  unfold brData at h
  split at h
  · refine ⟨‹_›, ?_⟩
    simp only at h
    split at h
    · exact .inl ⟨‹_›, by cases h; rfl⟩
    · exact .inr ⟨‹_›, by cases h; rfl⟩
  · cases h

theorem brCrc_cases {s t : State} (h : brCrc s = .next t) :
    (s.cnt = 0 ∧ t = { xchg fill s with cnt := 1 }) ∨
    (s.cnt = 1 ∧ t = { xchg fill s with kind := .ok, phase := .brDesel }) := by
  unfold brCrc at h
  simp only at h
  split at h
  · exact .inl ⟨‹_›, by cases h; rfl⟩
  · split at h
    · exact .inr ⟨‹_›, by cases h; rfl⟩
    · cases h

theorem brDesel_cases {s t : State} (h : brDesel s = .next t) : t = { deselect s with phase := .brTrail } := by
  cases h; rfl

theorem brTrail_cases {s t : State} (h : brTrail s = .next t) :
    (s.kind = .ok ∧ t = complete .ok (xchg fill s)) ∨
    (s.kind ≠ .ok ∧ t = bufUndefined (complete s.kind (xchg fill s))) := by
  unfold brTrail at h
  simp only at h
  split at h
  · rename_i hk; exact .inl ⟨hk, by rw [hk] at h; cases h; rfl⟩
  · exact .inr ⟨‹_›, by cases h; rfl⟩

theorem rlDesel_cases {s t : State} (h : rlDesel s = .next t) : t = { deselect s with phase := .rlTrail } := by
  cases h; rfl

theorem rlTrail_cases {s t : State} (h : rlTrail s = .next t) : t = complete .ok (xchg fill s) := by cases h; rfl

theorem puDesel_cases {s t : State} (h : puDesel s = .next t) :
    t = { deselect s with cnt := 0, phase := .puClk } := by cases h; rfl

theorem puClk_cases {s t : State} (h : puClk s = .next t) :
    (s.cnt.toNat = s.cfg.powerupExchanges - 1 ∧ t = complete .ok (xchg fill s)) ∨
    (s.cnt.toNat ≠ s.cfg.powerupExchanges - 1 ∧ t = { xchg fill s with cnt := s.cnt + 1 }) := by
  unfold puClk at h
  simp only at h
  split at h
  · exact .inl ⟨‹_›, by cases h; rfl⟩
  · exact .inr ⟨‹_›, by cases h; rfl⟩

/-- Everything acceptance of a decoded operation can do (R30): wait in a busy block, be refused, or latch and start. -/
theorem exec_cases {i : Instr} {s t : State} (h : exec i s = .next t) :
    (s.phase ≠ .idle ∧ t = s) ∨ (s.phase = .idle ∧ t = raise .protocolViolation s) ∨
    (s.phase = .idle ∧
      ((∃ idx arg, i = .send idx arg ∧ s.cs = false ∧ t = { s with cur := .send, idx := idx, arg := arg, phase := .cfSel }) ∨
       (∃ l, i = respOf l ∧ s.cs = true ∧
         t = { s with cur := .resp, len := lenOf l, rlen := 0, poll := 0, phase := .rrSkip }) ∨
       (∃ addr, i = .rdblk addr ∧ s.cs = false ∧
         t = { s with cur := .rdblk, idx := readBlockIdx, arg := addr, status := 0xFF, token := 0xFF, phase := .cfSel }) ∨
       (i = .release ∧ t = { s with cur := .release, phase := .rlDesel }) ∨
       (i = .pwrup ∧ t = { s with cur := .pwrup, phase := .puDesel }))) := by
  cases i with
  | send idx arg =>
    rcases accept_cases h with ⟨a, b⟩ | ⟨a, -, b⟩ | ⟨a, c, b⟩
    · exact .inl ⟨a, b⟩
    · exact .inr (.inl ⟨a, b⟩)
    · exact .inr (.inr ⟨a, .inl ⟨idx, arg, rfl, c, b⟩⟩)
  | resp1 =>
    rcases accept_cases h with ⟨a, b⟩ | ⟨a, -, b⟩ | ⟨a, c, b⟩
    · exact .inl ⟨a, b⟩
    · exact .inr (.inl ⟨a, b⟩)
    · exact .inr (.inr ⟨a, .inr (.inl ⟨.one, rfl, by simpa [cycleClosed] using c, b⟩)⟩)
  | resp2 =>
    rcases accept_cases h with ⟨a, b⟩ | ⟨a, -, b⟩ | ⟨a, c, b⟩
    · exact .inl ⟨a, b⟩
    · exact .inr (.inl ⟨a, b⟩)
    · exact .inr (.inr ⟨a, .inr (.inl ⟨.two, rfl, by simpa [cycleClosed] using c, b⟩)⟩)
  | resp5 =>
    rcases accept_cases h with ⟨a, b⟩ | ⟨a, -, b⟩ | ⟨a, c, b⟩
    · exact .inl ⟨a, b⟩
    · exact .inr (.inl ⟨a, b⟩)
    · exact .inr (.inr ⟨a, .inr (.inl ⟨.five, rfl, by simpa [cycleClosed] using c, b⟩)⟩)
  | rdblk addr =>
    rcases accept_cases h with ⟨a, b⟩ | ⟨a, -, b⟩ | ⟨a, c, b⟩
    · exact .inl ⟨a, b⟩
    · exact .inr (.inl ⟨a, b⟩)
    · exact .inr (.inr ⟨a, .inr (.inr (.inl ⟨addr, rfl, c, b⟩))⟩)
  | release =>
    rcases accept_cases h with ⟨a, b⟩ | ⟨a, -, b⟩ | ⟨a, -, b⟩
    · exact .inl ⟨a, b⟩
    · exact .inr (.inl ⟨a, b⟩)
    · exact .inr (.inr ⟨a, .inr (.inr (.inr (.inl ⟨rfl, b⟩)))⟩)
  | pwrup =>
    rcases accept_cases h with ⟨a, b⟩ | ⟨a, -, b⟩ | ⟨a, -, b⟩
    · exact .inl ⟨a, b⟩
    · exact .inr (.inl ⟨a, b⟩)
    · exact .inr (.inr ⟨a, .inr (.inr (.inr (.inr ⟨rfl, b⟩)))⟩)

/-- Acceptance always answers a next state: no operation is refused by the model and none faults. -/
theorem exec_next (i : Instr) (s : State) : ∃ t, exec i s = .next t := by
  cases i <;> simp only [exec, execSend, execResp1, execResp2, execResp5, acceptResp, execRdblk, execRelease, execPwrup, accept]
    <;> split <;> first | exact ⟨_, rfl⟩ | (split <;> exact ⟨_, rfl⟩)

/-! Which row a phase has. -/

theorem phaseStep_cfSel {s : State} (h : s.phase = .cfSel) : phaseStep s = cfSel s := by simp only [phaseStep, h]
theorem phaseStep_cfTx {s : State} (h : s.phase = .cfTx) : phaseStep s = cfTx s := by simp only [phaseStep, h]
theorem phaseStep_rrSkip {s : State} (h : s.phase = .rrSkip) : phaseStep s = rrSkip s := by simp only [phaseStep, h]
theorem phaseStep_rrRest {s : State} (h : s.phase = .rrRest) : phaseStep s = rrRest s := by simp only [phaseStep, h]
theorem phaseStep_brStatus {s : State} (h : s.phase = .brStatus) : phaseStep s = brStatus s := by simp only [phaseStep, h]
theorem phaseStep_brToken {s : State} (h : s.phase = .brToken) : phaseStep s = brToken s := by simp only [phaseStep, h]
theorem phaseStep_brData {s : State} (h : s.phase = .brData) : phaseStep s = brData s := by simp only [phaseStep, h]
theorem phaseStep_brCrc {s : State} (h : s.phase = .brCrc) : phaseStep s = brCrc s := by simp only [phaseStep, h]
theorem phaseStep_brDesel {s : State} (h : s.phase = .brDesel) : phaseStep s = brDesel s := by simp only [phaseStep, h]
theorem phaseStep_brTrail {s : State} (h : s.phase = .brTrail) : phaseStep s = brTrail s := by simp only [phaseStep, h]
theorem phaseStep_rlDesel {s : State} (h : s.phase = .rlDesel) : phaseStep s = rlDesel s := by simp only [phaseStep, h]
theorem phaseStep_rlTrail {s : State} (h : s.phase = .rlTrail) : phaseStep s = rlTrail s := by simp only [phaseStep, h]
theorem phaseStep_puDesel {s : State} (h : s.phase = .puDesel) : phaseStep s = puDesel s := by simp only [phaseStep, h]
theorem phaseStep_puClk {s : State} (h : s.phase = .puClk) : phaseStep s = puClk s := by simp only [phaseStep, h]

/-- Who moves in a step (R221, R28, R30, R160). -/
theorem step_cases {s t : State} (h : step s = .next t) :
    (s.rst = true ∧ t = resetStep s) ∨
    (s.rst = false ∧ s.phase ≠ .idle ∧ phaseStep s = .next t) ∨
    (s.rst = false ∧ s.phase = .idle ∧ ∃ w, s.req = some w ∧ ∃ i, decodeOpw w = .ok i ∧ exec i (takeReq s) = .next t) ∨
    (s.rst = false ∧ s.phase = .idle ∧ ∃ w, s.req = some w ∧ (∃ r, decodeOpw w = .error r) ∧
      t = raise .illegalOp (takeReq s)) ∨
    (s.rst = false ∧ s.phase = .idle ∧ s.req = none ∧ t = hostStep s) := by
  unfold step at h
  split at h
  · exact .inl ⟨‹_›, by cases h; rfl⟩
  · split at h
    · unfold idleStep at h
      split at h
      · rename_i w hw
        unfold acceptWord at h
        split at h
        · exact .inr (.inr (.inl ⟨by simp_all, ‹_›, w, hw, _, ‹_›, h⟩))
        · exact .inr (.inr (.inr (.inl ⟨by simp_all, ‹_›, w, hw, ⟨_, ‹_›⟩, by cases h; rfl⟩)))
      · exact .inr (.inr (.inr (.inr ⟨by simp_all, ‹_›, ‹_›, by cases h; rfl⟩)))
    · exact .inr (.inl ⟨by simp_all, ‹_›, h⟩)

theorem step_of_busy {s : State} (hr : s.rst = false) (hp : s.phase ≠ .idle) : step s = phaseStep s := by
  simp [step, hr, hp]

theorem step_of_request {s : State} {w : OpWord} (hr : s.rst = false) (hp : s.phase = .idle) (hq : s.req = some w) :
    step s = acceptWord w s := by simp [step, idleStep, hr, hp, hq]

theorem step_of_no_request {s : State} (hr : s.rst = false) (hp : s.phase = .idle) (hq : s.req = none) :
    step s = .next (hostStep s) := by simp [step, idleStep, hr, hp, hq]

theorem step_of_reset {s : State} (hr : s.rst = true) : step s = .next (resetStep s) := by simp [step, hr]

/-! A step in a phase is its row. -/

theorem step_cfSel {s : State} (hr : s.rst = false) (h : s.phase = .cfSel) : step s = cfSel s :=
  (step_of_busy hr (by simp [h])).trans (phaseStep_cfSel h)
theorem step_cfTx {s : State} (hr : s.rst = false) (h : s.phase = .cfTx) : step s = cfTx s :=
  (step_of_busy hr (by simp [h])).trans (phaseStep_cfTx h)
theorem step_rrSkip {s : State} (hr : s.rst = false) (h : s.phase = .rrSkip) : step s = rrSkip s :=
  (step_of_busy hr (by simp [h])).trans (phaseStep_rrSkip h)
theorem step_rrRest {s : State} (hr : s.rst = false) (h : s.phase = .rrRest) : step s = rrRest s :=
  (step_of_busy hr (by simp [h])).trans (phaseStep_rrRest h)
theorem step_brStatus {s : State} (hr : s.rst = false) (h : s.phase = .brStatus) : step s = brStatus s :=
  (step_of_busy hr (by simp [h])).trans (phaseStep_brStatus h)
theorem step_brToken {s : State} (hr : s.rst = false) (h : s.phase = .brToken) : step s = brToken s :=
  (step_of_busy hr (by simp [h])).trans (phaseStep_brToken h)
theorem step_brData {s : State} (hr : s.rst = false) (h : s.phase = .brData) : step s = brData s :=
  (step_of_busy hr (by simp [h])).trans (phaseStep_brData h)
theorem step_brCrc {s : State} (hr : s.rst = false) (h : s.phase = .brCrc) : step s = brCrc s :=
  (step_of_busy hr (by simp [h])).trans (phaseStep_brCrc h)
theorem step_brDesel {s : State} (hr : s.rst = false) (h : s.phase = .brDesel) : step s = brDesel s :=
  (step_of_busy hr (by simp [h])).trans (phaseStep_brDesel h)
theorem step_brTrail {s : State} (hr : s.rst = false) (h : s.phase = .brTrail) : step s = brTrail s :=
  (step_of_busy hr (by simp [h])).trans (phaseStep_brTrail h)
theorem step_rlDesel {s : State} (hr : s.rst = false) (h : s.phase = .rlDesel) : step s = rlDesel s :=
  (step_of_busy hr (by simp [h])).trans (phaseStep_rlDesel h)
theorem step_rlTrail {s : State} (hr : s.rst = false) (h : s.phase = .rlTrail) : step s = rlTrail s :=
  (step_of_busy hr (by simp [h])).trans (phaseStep_rlTrail h)
theorem step_puDesel {s : State} (hr : s.rst = false) (h : s.phase = .puDesel) : step s = puDesel s :=
  (step_of_busy hr (by simp [h])).trans (phaseStep_puDesel h)
theorem step_puClk {s : State} (hr : s.rst = false) (h : s.phase = .puClk) : step s = puClk s :=
  (step_of_busy hr (by simp [h])).trans (phaseStep_puClk h)

end Sys2Proof.Machine
end

