-- ==== Sys2Proof/Laws/Runs.lean ====
section
/-! SUPPORT. Runs of several steps: how they compose, what a sequence of exchanges leaves (spec/00_scope.md R10;
spec/10_state.md R36), and the poll loops of the phase table (spec/10_state.md R28), each once. -/

namespace Sys2Proof.Machine

theorem run_succ {s t : State} {n : Nat} (h : step s = .next t) : run (n + 1) s = run n t := by simp [run, h]

theorem run_one {s t : State} (h : step s = .next t) : run 1 s = .next t := run_succ h

theorem run_add {m n : Nat} {s t : State} (h : run m s = .next t) : run (m + n) s = run n t := by
  induction m generalizing s with
  | zero => cases h; rw [Nat.zero_add]
  | succ m ih =>
    rw [Nat.add_right_comm]
    simp only [run] at h ⊢
    split at h
    · exact ih h
    · cases h
    · cases h

/-- What transmitting `txs` leaves: the card's stream and the two records moved on, nothing else. -/
def transmitted (txs : List Byte) (s : State) : State :=
  { s with
    card := s.card.drop txs.length
    xchgs := s.xchgs + txs.length
    trace := (exchanges s 0 txs).reverse ++ s.trace
    diag := (diagBytes s 0 txs).reverse ++ s.diag }

theorem exchanges_cons (s : State) (tx : Byte) (txs : List Byte) (n : Nat) :
    exchanges s n (tx :: txs) = .xchg tx (s.rx n) :: exchanges (xchg tx s) n txs := by
  simp [exchanges, List.mapIdx_cons, Nat.add_assoc]

theorem diagBytes_cons (s : State) (tx : Byte) (txs : List Byte) (n : Nat) :
    diagBytes s n (tx :: txs) = .byte tx (s.rx n) :: diagBytes (xchg tx s) n txs := by
  simp [diagBytes, List.mapIdx_cons, Nat.add_assoc]

@[simp] theorem transmitted_nil (s : State) : transmitted [] s = s := by simp [transmitted, exchanges, diagBytes]

theorem transmitted_cons (tx : Byte) (txs : List Byte) (s : State) :
    transmitted (tx :: txs) s = transmitted txs (xchg tx s) := by
  simp [transmitted, exchanges_cons, diagBytes_cons, xchg]
  omega

theorem transmitted_append (a b : List Byte) (s : State) :
    transmitted (a ++ b) s = transmitted b (transmitted a s) := by
  induction a generalizing s with
  | nil => simp
  | cons x a ih => simp [transmitted_cons, ih]

theorem rx_transmitted (a : List Byte) (s : State) (n : Nat) : (transmitted a s).rx n = s.rx (a.length + n) := by
  induction a generalizing s with
  | nil => simp
  | cons x a ih => simp [transmitted_cons, ih, Nat.add_right_comm]

theorem exchanges_transmitted (a b : List Byte) (s : State) (n : Nat) :
    exchanges (transmitted a s) n b = exchanges s (a.length + n) b := by simp [exchanges, rx_transmitted, Nat.add_assoc]

theorem diagBytes_transmitted (a b : List Byte) (s : State) (n : Nat) :
    diagBytes (transmitted a s) n b = diagBytes s (a.length + n) b := by simp [diagBytes, rx_transmitted, Nat.add_assoc]

theorem exchanges_append (s : State) (n : Nat) (a b : List Byte) :
    exchanges s n (a ++ b) = exchanges s n a ++ exchanges s (n + a.length) b := by
  simp [exchanges, List.mapIdx_append, Nat.add_assoc, Nat.add_comm a.length]

theorem diagBytes_append (s : State) (n : Nat) (a b : List Byte) :
    diagBytes s n (a ++ b) = diagBytes s n a ++ diagBytes s (n + a.length) b := by
  simp [diagBytes, List.mapIdx_append, Nat.add_assoc, Nat.add_comm a.length]

/-- A poll loop within its bound never meets the timeout check (R28). -/
theorem limitReached_of_within {l : Limit} {k : Nat} (h : withinLimit l k) : ∀ j ≤ k, limitReached l j = false := by
  intro j hj
  cases l with
  | inf => rfl
  | upTo n =>
    have h' : k < n := h
    simp only [limitReached, beq_eq_false_iff_ne]
    omega

/-! The poll loops, by one induction: a phase whose step on a dropped byte is an exchange and a count. -/

theorem run_poll {p : Phase} {dropped : Byte → Bool}
    (hrow : ∀ s : State, s.rst = false → s.phase = p → limitReached s.cfg.pollLimit s.poll = false →
      dropped (s.rx 0) = true → step s = .next { xchg fill s with poll := s.poll + 1 })
    (k : Nat) (s : State) (hr : s.rst = false) (hp : s.phase = p) (hd : ∀ j < k, dropped (s.rx j) = true)
    (hl : ∀ j < k, limitReached s.cfg.pollLimit (s.poll + j) = false) :
    run k s = .next { transmitted (List.replicate k fill) s with poll := s.poll + k } := by
  induction k generalizing s with
  | zero => rw [List.replicate_zero, transmitted_nil]; rfl
  | succ k ih =>
    refine (run_succ (hrow s hr hp (hl 0 (by omega)) (hd 0 (by omega)))).trans ?_
    refine (ih { xchg fill s with poll := s.poll + 1 } hr hp (fun j hj => ?_) (fun j hj => ?_)).trans ?_
    · exact (congrArg dropped (rx_xchg fill s j)).trans (hd (j + 1) (by omega))
    · have h := hl (j + 1) (by omega)
      rw [show s.poll + (j + 1) = s.poll + 1 + j by omega] at h
      exact h
    · rw [List.replicate_succ, transmitted_cons, show s.poll + (k + 1) = s.poll + 1 + k by omega]; rfl

theorem rrSkip_filler {s : State} (hr : s.rst = false) (hp : s.phase = .rrSkip)
    (hl : limitReached s.cfg.pollLimit s.poll = false) (hf : isFiller (s.rx 0) = true) :
    step s = .next { xchg fill s with poll := s.poll + 1 } := by
  rw [step_of_busy hr (by simp [hp]), phaseStep_rrSkip hp]
  exact (if_neg (by simp [hl])).trans (if_pos hf)

theorem brStatus_filler {s : State} (hr : s.rst = false) (hp : s.phase = .brStatus)
    (hl : limitReached s.cfg.pollLimit s.poll = false) (hf : isFiller (s.rx 0) = true) :
    step s = .next { xchg fill s with poll := s.poll + 1 } := by
  rw [step_of_busy hr (by simp [hp]), phaseStep_brStatus hp]
  exact (if_neg (by simp [hl])).trans (if_pos hf)

theorem brToken_notReady {s : State} (hr : s.rst = false) (hp : s.phase = .brToken)
    (hl : limitReached s.cfg.pollLimit s.poll = false) (hf : (!isToken (s.rx 0)) = true) :
    step s = .next { xchg fill s with poll := s.poll + 1 } := by
  rw [step_of_busy hr (by simp [hp]), phaseStep_brToken hp]
  exact (if_neg (by simp [hl])).trans (if_neg (by simpa using hf))

/-! The frame (R28 rows `CF_SEL` and `CF_TX`), shared by SEND and RDBLK, and step 5 of RDBLK (rows `BR_DESEL` and `BR_TRAIL`). -/

theorem cfTx_head {s : State} {b : Byte} {c : BitVec 10} (hr : s.rst = false) (hp : s.phase = .cfTx) (hcnt : s.cnt = c)
    (hc : c.toNat < 5) (hb : (frameHead s.idx s.arg)[c.toNat]? = some b) :
    step s = .next { xchg b s with cnt := c + 1 } := by
  rw [step_cfTx hr hp]
  have hf : frameByte s.cfg.cksumMode s.idx s.arg s.cnt.toNat = some b := by
    rw [frameByte, hcnt, List.getElem?_append_left (by simpa [frameHead] using hc)]
    exact hb
  simp only [cfTx, hf]
  rw [if_pos (by rw [hcnt]; exact hc), hcnt]

/-- `Select()` and the first five frame bytes. -/
theorem run_frameHead (s : State) (hr : s.rst = false) (hp : s.phase = .cfSel) :
    run 6 s = .next { transmitted (frameHead s.idx s.arg) (select s) with cnt := 5, phase := .cfTx } := by
  refine Eq.trans (run_succ (t := { select s with cnt := 0, phase := .cfTx }) (step_cfSel hr hp)) ?_
  refine Eq.trans (run_succ (cfTx_head (c := 0) (by exact hr) rfl rfl (by decide) rfl)) ?_
  refine Eq.trans (run_succ (cfTx_head (c := 1) (by exact hr) rfl rfl (by decide) rfl)) ?_
  refine Eq.trans (run_succ (cfTx_head (c := 2) (by exact hr) rfl rfl (by decide) rfl)) ?_
  refine Eq.trans (run_succ (cfTx_head (c := 3) (by exact hr) rfl rfl (by decide) rfl)) ?_
  refine Eq.trans (run_succ (cfTx_head (c := 4) (by exact hr) rfl rfl (by decide) rfl)) ?_
  simp only [frameHead, transmitted_cons, transmitted_nil, run]
  rfl

/-- The sixth frame byte (R73). -/
theorem frameByte_five (mode : CksumMode) (idx : CmdIdx) (arg : Word) :
    frameByte mode idx arg 5 = some (((ck7 mode idx arg).setWidth 8 <<< 1) ||| 1) := rfl

/-- A SEND's frame and its completion. -/
theorem run_frame_send (s : State) (hr : s.rst = false) (hp : s.phase = .cfSel) (hc : s.cur = .send) :
    run 7 s = .next (complete .ok (
      let t := transmitted (frame s.cfg.cksumMode s.idx s.arg) (select s)
      { t with cnt := 5, diag := .cmd s.idx s.arg :: t.diag })) := by
  refine (run_add (m := 6) (n := 1) (run_frameHead s hr hp)).trans (run_one ?_)
  refine Eq.trans (step_cfTx (by exact hr) rfl) ?_
  rw [cfTx]
  simp only [show ((5 : BitVec 10)).toNat = 5 from rfl, frameByte_five]
  refine (if_neg (by decide)).trans ((if_pos hc).trans ?_)
  rw [frame, transmitted_append, transmitted_cons, transmitted_nil]
  rfl

/-- An RDBLK's frame, up to its status wait. -/
theorem run_frame_rdblk (s : State) (hr : s.rst = false) (hp : s.phase = .cfSel) (hc : s.cur = .rdblk) :
    run 7 s = .next (
      let t := transmitted (frame s.cfg.cksumMode s.idx s.arg) (select s)
      { t with cnt := 5, diag := .cmd s.idx s.arg :: t.diag, poll := 0, phase := .brStatus }) := by
  refine (run_add (m := 6) (n := 1) (run_frameHead s hr hp)).trans (run_one ?_)
  refine Eq.trans (step_cfTx (by exact hr) rfl) ?_
  rw [cfTx]
  simp only [show ((5 : BitVec 10)).toNat = 5 from rfl, frameByte_five]
  have hne : ¬ s.cur = .send := by rw [hc]; decide
  refine (if_neg (by decide)).trans ((if_neg hne).trans ((if_pos hc).trans ?_))
  rw [frame, transmitted_append, transmitted_cons, transmitted_nil]
  rfl

/-- Step 5 of an RDBLK that failed. -/
theorem run_step5_failed (s : State) (hr : s.rst = false) (hp : s.phase = .brDesel) (hk : s.kind ≠ .ok) :
    run 2 s = .next (bufUndefined (complete s.kind (xchg fill (deselect s)))) := by
  refine Eq.trans (run_succ (t := { deselect s with phase := .brTrail }) (step_brDesel hr hp)) (run_one ?_)
  exact Eq.trans (step_brTrail (by exact hr) rfl) (if_neg hk)

/-- Step 5 of an RDBLK that succeeded. -/
theorem run_step5_ok (s : State) (hr : s.rst = false) (hp : s.phase = .brDesel) (hk : s.kind = .ok) :
    run 2 s = .next (complete .ok (xchg fill (deselect s))) := by
  refine Eq.trans (run_succ (t := { deselect s with phase := .brTrail }) (step_brDesel hr hp)) (run_one ?_)
  refine Eq.trans (step_brTrail (by exact hr) rfl) ?_
  exact (if_pos hk).trans (by rw [← hk]; rfl)

end Sys2Proof.Machine
end

