-- ==== Sys2Proof/Tests/Slice0.lean ====
section
/-! SUPPORT. The model's own tests. Expected results are those of spec/95_test_vectors.md (V1 to V8D), spec/30_encoding.md R83 and
spec/40_checksum_generator.md R106; the witnesses show that the hypotheses of the statements can be met. -/

namespace Sys2Proof.Tests

open Sys2Proof.Machine

/-! ### Helpers -/

/-- The next state of a step that has one. -/
def nextOf : Result → Option State
  | .next s => some s
  | _ => none

/-- What a test looks at after one step. -/
def after {α : Type} (s : State) (look : State → α) : Option α := (nextOf (step s)).map look

/-- The machine after reset, with a word at the request port and `cs` given. -/
def presenting (w : OpWord) (cs : Bool) : State := { State.reset with req := some w, cs := cs, line := cs }

/-- An operation in flight, with the bytes the card will answer. -/
def running (c : Cur) (p : Phase) (cs : Bool) (card : List Byte) : State :=
  { State.reset with cur := c, phase := p, cs := cs, line := cs, card := card }

/-- An idle block with the bytes the card will answer. -/
def idle (cs : Bool) (card : List Byte) : State := { State.reset with cs := cs, line := cs, card := card }

/-- The reference configuration with a finite poll limit. -/
def bounded (n : Nat) : Config := { Config.reference with pollLimit := .upTo n }

/-- The bytes a card answers during a frame. -/
def frameTime : List Byte := List.replicate 6 0xFF

/-! ### Well-formedness: each check refuses an ill-formed term (V80 to V8D) -/

theorem test_wf_opcode : OpFields.wellFormed ⟨0x00, 0, 0⟩ = false ∧ OpFields.wellFormed ⟨0x06, 0, 0⟩ = false ∧
    OpFields.wellFormed ⟨0xFF, 0, 0⟩ = false := by decide

theorem test_wf_send : OpFields.sendForm ⟨0x01, 0x40, 0⟩ = false ∧ OpFields.sendForm ⟨0x01, 0x80, 0⟩ = false ∧
    OpFields.wellFormed ⟨0x01, 0x40, 0⟩ = false ∧ OpFields.wellFormed ⟨0x01, 0x3F, 0⟩ = true := by decide

theorem test_wf_resp : OpFields.respForm ⟨0x02, 0, 0⟩ = false ∧ OpFields.respForm ⟨0x02, 3, 0⟩ = false ∧
    OpFields.respForm ⟨0x02, 4, 0⟩ = false ∧ OpFields.respForm ⟨0x02, 6, 0⟩ = false ∧ OpFields.respForm ⟨0x02, 1, 1⟩ = false ∧
    OpFields.wellFormed ⟨0x02, 1, 1⟩ = false := by decide

theorem test_wf_rdblk : OpFields.rdblkForm ⟨0x03, 1, 0⟩ = false ∧ OpFields.wellFormed ⟨0x03, 1, 0⟩ = false := by decide

theorem test_wf_release : OpFields.releaseForm ⟨0x04, 0, 1⟩ = false ∧ OpFields.releaseForm ⟨0x04, 1, 0⟩ = false ∧
    OpFields.wellFormed ⟨0x04, 0, 1⟩ = false := by decide

theorem test_wf_pwrup : OpFields.pwrupForm ⟨0x05, 0xFF, 0⟩ = false ∧ OpFields.pwrupForm ⟨0x05, 0, 1⟩ = false ∧
    OpFields.wellFormed ⟨0x05, 0xFF, 0⟩ = false := by decide

/-! ### Decoding: words written out bit by bit from R82 and R83 (`opc`, `a`, `w`) -/

theorem test_decode_send : decodeOpw 0b00000001_00001000_00000000000000000000000110101010 = .ok (.send 8 0x1AA) ∧
    decodeOpw 0b00000001_00111111_11111111111111111111111111111111 = .ok (.send 63 0xFFFFFFFF) := by decide

theorem test_decode_resp : decodeOpw 0b00000010_00000001_00000000000000000000000000000000 = .ok .resp1 ∧
    decodeOpw 0b00000010_00000010_00000000000000000000000000000000 = .ok .resp2 ∧
    decodeOpw 0b00000010_00000101_00000000000000000000000000000000 = .ok .resp5 := by decide

theorem test_decode_rdblk :
    decodeOpw 0b00000011_00000000_00010010001101000101011001111000 = .ok (.rdblk 0x12345678) := by decide

theorem test_decode_release : decodeOpw 0b00000100_00000000_00000000000000000000000000000000 = .ok .release := by decide

theorem test_decode_pwrup : decodeOpw 0b00000101_00000000_00000000000000000000000000000000 = .ok .pwrup := by decide

/-- V80 to V8D: every illegal word is refused under the name of the clause of R86 it breaks. -/
theorem test_decode_rejects_by_name :
    decodeOpw 0x000000000000 = .error .unknownOpcode ∧ decodeOpw 0x060000000000 = .error .unknownOpcode ∧
    decodeOpw 0xFF0000000000 = .error .unknownOpcode ∧ decodeOpw 0x014000000000 = .error .sendIndexRange ∧
    decodeOpw 0x018000000000 = .error .sendIndexRange ∧ decodeOpw 0x020000000000 = .error .respLength ∧
    decodeOpw 0x020300000000 = .error .respLength ∧ decodeOpw 0x020400000000 = .error .respLength ∧
    decodeOpw 0x020600000000 = .error .respLength ∧ decodeOpw 0x020100000001 = .error .respOperand ∧
    decodeOpw 0x030100000000 = .error .rdblkOperand ∧ decodeOpw 0x040000000001 = .error .releaseOperand ∧
    decodeOpw 0x040100000000 = .error .releaseOperand ∧ decodeOpw 0x05FF00000000 = .error .pwrupOperand := by decide

/-- V11, V30, V33, V35, V41, V50, V60: the encoder's words. -/
theorem test_encode : encode (.send 8 0x1AA) = 0x0108000001AA ∧ encode .resp1 = 0x020100000000 ∧
    encode .resp2 = 0x020200000000 ∧ encode .resp5 = 0x020500000000 ∧ encode (.rdblk 0x200) = 0x030000000200 ∧
    encode .release = 0x040000000000 ∧ encode .pwrup = 0x050000000000 := by decide +kernel

/-- A word of every row, placed by `withFetchWord` at the port of the reset machine, is what the next step runs (RESP is refused
there: after reset no cycle is open). -/
theorem test_fetch_word :
    after (State.reset.withFetchWord 48 0x010000000000) State.cur = some .send ∧
    after (State.reset.withFetchWord 48 0x020100000000) State.kind = some .protocolViolation ∧
    after (State.reset.withFetchWord 48 0x020200000000) State.kind = some .protocolViolation ∧
    after (State.reset.withFetchWord 48 0x020500000000) State.kind = some .protocolViolation ∧
    after (State.reset.withFetchWord 48 0x030000000000) State.cur = some .rdblk ∧
    after (State.reset.withFetchWord 48 0x040000000000) State.cur = some .release ∧
    after (State.reset.withFetchWord 48 0x050000000000) State.cur = some .pwrup := by decide +kernel

/-! ### The Checksum Generator and the frame (V1 to V9, V13, V17) -/

theorem test_checksum : ck7 .crc7 0 0 = 0x4A ∧ ck7 .crc7 8 0x1AA = 0x43 ∧ ck7 .crc7 17 1 = 0x23 ∧ ck7 .crc7 17 0x200 = 0x3C ∧
    ck7 .crc7 41 0 = 0x72 ∧ ck7 .crc7 17 0x12345678 = 0x2E := by decide +kernel

theorem test_frame_byte_order : frame .crc7 17 0x12345678 = [0x51, 0x12, 0x34, 0x56, 0x78, 0x5D] ∧
    frame (.table 0x7F) 58 0 = [0x7A, 0x00, 0x00, 0x00, 0x00, 0xFF] := by decide +kernel

/-! ### One step of each operation -/

/-- V23, last step: the checksum byte goes out, whatever comes back, and the SEND completes. -/
theorem test_send_last_byte : after { running .send .cfTx true [0x12] with cnt := 5 }
    (fun t => (t.phase, t.cur, t.kind, t.trace)) = some (.idle, .none, .ok, [.xchg 0x95 0x12]) := by decide +kernel

/-- V22: SEND with `cs = 1`. -/
theorem test_send_refused : after { presenting 0x010000000000 true with idx := 13 }
    (fun t => (t.kind, t.cs, t.idx, t.trace, t.phase)) = some (.protocolViolation, true, 13, [], .idle) := by decide +kernel

/-- V32: 0x7F is a response byte, and 0xC3 is not. -/
theorem test_resp1_captures : after { running .resp .rrSkip true [0x7F] with len := 1 }
      (fun t => (t.resp[0], t.rlen, t.kind, t.phase)) = some (0x7F, 1, .ok, .idle) ∧
    after { running .resp .rrSkip true [0xC3] with len := 1 } (fun t => (t.rlen, t.poll, t.phase)) = some (0, 1, .rrSkip) := by
  decide +kernel

/-- V37: the bound is met, no exchange is made. -/
theorem test_resp1_times_out :
    after { running .resp .rrSkip true [0x01] with cfg := bounded 3, len := 1, poll := 3 }
      (fun t => (t.kind, t.rlen, t.cs, t.card)) = some (.timeout, 0, true, [0x01]) := by decide +kernel

/-- V39: the second byte is stored whatever it is. -/
theorem test_resp2_rest : after { running .resp .rrRest true [0xFF] with len := 2, cnt := 1, rlen := 1 }
    (fun t => (t.resp[1], t.rlen, t.kind)) = some (0xFF, 2, .ok) := by decide +kernel

/-- V34: four more bytes follow the first, the first of them 0xFF. -/
theorem test_resp5_rest : after { running .resp .rrRest true [0xFF] with len := 5, cnt := 1, rlen := 1 }
    (fun t => (t.resp[1], t.rlen, t.cnt, t.phase)) = some (0xFF, 2, 2, .rrRest) := by decide +kernel

/-- V42: a status of 0x04 ends the read before the token wait. -/
theorem test_rdblk_error_status : after (running .rdblk .brStatus true [0x04])
    (fun t => (t.status, t.kind, t.phase)) = some (0x04, .operationFailed, .brDesel) := by decide +kernel

/-- V45: in the token wait 0x80 is a token. -/
theorem test_rdblk_error_token : after (running .rdblk .brToken true [0x80])
    (fun t => (t.token, t.kind, t.phase)) = some (0x80, .tokenError, .brDesel) := by decide +kernel

/-- V50: the deassertion comes before the trailing exchange. -/
theorem test_release_deselects : after (running .release .rlDesel true [])
    (fun t => (t.cs, t.trace, t.phase)) = some (false, [.deselect], .rlTrail) := by decide +kernel

/-- V60: the eightieth exchange completes. -/
theorem test_pwrup_last_exchange : after { running .pwrup .puClk false [0x00] with cnt := 79 }
      (fun t => (t.kind, t.trace, t.phase)) = some (.ok, [.xchg 0xFF 0x00], .idle) ∧
    after { running .pwrup .puClk false [0x00] with cnt := 78 } State.phase = some .puClk := by decide +kernel

/-- V83 with `cs = 1` and V86 with `cs = 0`: an illegal word is illegal before any precondition is looked at (R196). -/
theorem test_illegal_first : after (presenting 0x014000000000 true) State.kind = some .illegalOp ∧
    after (presenting 0x020300000000 false) State.kind = some .illegalOp := by decide +kernel

/-- V72: the earlier check wins, and V74: only the low nibble of byte 3 is looked at. -/
theorem test_init_interface_check :
    after { State.reset with prog := .init .interfaceCheck .check, resp := #v[0x01, 0x00, 0x00, 0x02, 0xAB] }
      (fun t => (t.hostResult, t.session)) = some (some .unsupportedVoltage, .notInitialized) ∧
    after { State.reset with prog := .init .interfaceCheck .check, resp := #v[0x01, 0xFF, 0xFF, 0xF1, 0xAA] }
      (fun t => (t.hostResult, t.session)) = some (none, .interfaceConfirmed) := by decide +kernel

/-! ### Witnesses: states and operands that meet the hypotheses of the statements -/

theorem witness_IllegalWordRaisesIllegalOp :
    let s := presenting 0x000000000000 true
    s.rst = false ∧ s.phase = .idle ∧ s.req = some 0x000000000000 ∧
      ([0x000000000000, 0x060000000000, 0xFF0000000000, 0x014000000000, 0x018000000000, 0x020000000000, 0x020600000000,
          0x020100000001, 0x030100000000, 0x040000000001, 0x040100000000, 0x05FF00000000, 0x050000000001].map fun w =>
        after (presenting w false) (fun t => (t.kind, t.req, t.phase))) = List.replicate 13 (some (.illegalOp, none, .idle)) ∧
      after (presenting 0x013F00000000 false) State.kind = some .ok := by decide +kernel

theorem witness_StepAcceptsDecodedRequest :
    let s := presenting 0x030000000200 false
    s.rst = false ∧ s.phase = .idle ∧ s.req = some 0x030000000200 ∧ decodeOpw 0x030000000200 = .ok (.rdblk 0x200) := by decide

/-- Both clauses: a running operation that goes on, and a state that has no row. -/
theorem witness_RunningOperationIgnoresRequest :
    let s := running .release .rlDesel true []
    let u := { running .send .cfTx true [] with cnt := 6 }
    s.rst = false ∧ s.phase ≠ .idle ∧ (nextOf (step s)).isSome = true ∧ u.rst = false ∧ u.phase ≠ .idle ∧
      step u = .fault .noPhaseRow := ⟨rfl, by decide +kernel, rfl, rfl, by decide +kernel, rfl⟩

/-- Every clause: over, in flight, abandoned in flight, abandoned at the port, and completed. -/
theorem witness_FinishedRunStaysFinished :
    let s := { running .release .rlDesel true [] with rst := true }
    let u := { presenting 0x040000000000 true with rst := true }
    let v := running .release .rlTrail false [0xFF]
    RunOver State.reset ∧ RunWellFormed State.reset ∧
    (s.rst = true ∧ s.phase ≠ .idle ∧ after s (fun t => (t.phase, t.abandoned, t.results)) = some (.idle, true, [])) ∧
    (u.rst = true ∧ u.req ≠ none ∧ after u (fun t => (t.req, t.abandoned, t.results)) = some (none, true, [])) ∧
    (v.rst = false ∧ v.phase ≠ .idle ∧ v.req = none ∧ v.prog = .free ∧ v.calls = [] ∧
      after v (fun t => (t.phase, t.abandoned, t.cs)) = some (.idle, false, false)) :=
  ⟨⟨rfl, rfl, rfl, rfl, rfl, rfl⟩, ⟨⟨rfl, rfl, rfl, rfl, rfl, rfl⟩, rfl⟩, by decide +kernel, by decide +kernel, by decide +kernel⟩

/-- R239: an abandoned operation is no longer the last one when a later one has completed. -/
theorem test_abandoned_until_next_completion :
    after { running .release .rlTrail false [0xFF] with abandoned := true } State.abandoned = some false ∧
    after { presenting 0x020100000000 false with abandoned := true } State.abandoned = some false ∧
    after { running .release .rlDesel false [] with abandoned := true } State.abandoned = some true := by decide +kernel

/-- Both clauses: a read in flight, and another operation. -/
theorem witness_BlockResetAbandonsOperation :
    let s := { running .rdblk .brData true [] with rst := true }
    let u := { running .send .cfTx true [] with rst := true }
    s.rst = true ∧ s.cur = .rdblk ∧ u.rst = true ∧ u.cur ≠ .rdblk := by decide

theorem witness_PreconditionBreachIsRefused :
    (idle true []).phase = .idle ∧ (idle true []).cs = true ∧ (idle false []).phase = .idle ∧ (idle false []).cs = false := by decide

theorem witness_SendTransmitsFrame : (idle false frameTime).rst = false ∧ (idle false frameTime).phase = .idle ∧
    (idle false frameTime).cs = false := by decide

/-- V31 without a bound, and V38: the byte comes on the last permitted exchange. -/
theorem witness_RespReadsResponse :
    let s := idle true [0xFF, 0xFF, 0x01]
    let u := { idle true [0xFF, 0xFF, 0x01] with cfg := bounded 3 }
    (s.rst = false ∧ s.phase = .idle ∧ s.cs = true ∧ AllFiller s 0 2 ∧ isFiller (s.rx 2) = false ∧ withinLimit s.cfg.pollLimit 2) ∧
      (u.rst = false ∧ u.phase = .idle ∧ u.cs = true ∧ AllFiller u 0 2 ∧ isFiller (u.rx 2) = false ∧
        withinLimit u.cfg.pollLimit 2) := by
  refine ⟨⟨rfl, rfl, rfl, ?_, rfl, trivial⟩, ⟨rfl, rfl, rfl, ?_, rfl, ?_⟩⟩
  · unfold AllFiller; decide
  · unfold AllFiller; decide
  · show 2 < 3; decide

/-- V37. -/
theorem witness_RespTimesOut :
    let s := { idle true [0xFF, 0x80, 0xFF] with cfg := bounded 3 }
    s.rst = false ∧ s.phase = .idle ∧ s.cs = true ∧ s.cfg.pollLimit = .upTo 3 ∧ AllFiller s 0 3 := by
  refine ⟨rfl, rfl, rfl, rfl, ?_⟩
  unfold AllFiller; decide

theorem witness_RespHangsOnSilentCard :
    let s := idle true [0xFF, 0x80, 0xFF]
    s.rst = false ∧ s.phase = .idle ∧ s.cs = true ∧ s.cfg.pollLimit = .inf ∧ AllFiller s 0 3 := by
  refine ⟨rfl, rfl, rfl, rfl, ?_⟩
  unfold AllFiller; decide

/-- Both polls: filler that is not 0xFF for the status, 0xFF for the token; and no byte at all. -/
theorem witness_RdblkHangsOnSilentCard :
    let s := idle false (frameTime ++ [0xFF, 0x80, 0x00, 0xFF, 0xFF])
    s.rst = false ∧ s.phase = .idle ∧ s.cs = false ∧ s.cfg.pollLimit = .inf ∧ AllFiller s 6 2 ∧ s.rx (6 + 2) = 0x00 ∧
      AllNotReady s (7 + 2) 2 ∧ AllFiller s 6 0 ∧ AllNotReady s (7 + 2) 0 := by
  refine ⟨rfl, rfl, rfl, rfl, ?_, rfl, ?_, ?_, ?_⟩
  · unfold AllFiller; decide
  · unfold AllNotReady; decide
  · unfold AllFiller; decide
  · unfold AllNotReady; decide

/-- V41 up to its token. -/
theorem witness_RdblkReadsBlock :
    let s := idle false (frameTime ++ [0xFF, 0xFF, 0x00, 0xFF, 0xFF, 0xFF, 0xFE])
    s.rst = false ∧ s.phase = .idle ∧ s.cs = false ∧ Memory.wf s.buf ∧ AllFiller s 6 2 ∧ s.rx (6 + 2) = 0x00 ∧
      withinLimit s.cfg.pollLimit 2 ∧ AllNotReady s (7 + 2) 3 ∧ s.rx (7 + 2 + 3) = 0xFE ∧ withinLimit s.cfg.pollLimit 3 := by
  refine ⟨rfl, rfl, rfl, Memory.wf_nil, ?_, rfl, trivial, ?_, rfl, trivial⟩
  · unfold AllFiller; decide
  · unfold AllNotReady; decide

/-- V42, and a status on the last permitted exchange. -/
theorem witness_RdblkFailsOnErrorStatus :
    let s := { idle false (frameTime ++ [0xFF, 0x04]) with cfg := bounded 2 }
    s.rst = false ∧ s.phase = .idle ∧ s.cs = false ∧ AllFiller s 6 1 ∧ isFiller (s.rx (6 + 1)) = false ∧ s.rx (6 + 1) ≠ 0x00 ∧
      withinLimit s.cfg.pollLimit 1 := by
  refine ⟨rfl, rfl, rfl, ?_, rfl, by decide, ?_⟩
  · unfold AllFiller; decide
  · show 1 < 2; decide

/-- V48: both polls find their byte on the last permitted exchange. -/
theorem witness_RdblkFailsOnErrorToken :
    let s := { idle false (frameTime ++ [0xFF, 0xFF, 0xFF, 0x00, 0xFF, 0xFF, 0xFF, 0x0B]) with cfg := bounded 4 }
    s.rst = false ∧ s.phase = .idle ∧ s.cs = false ∧ AllFiller s 6 3 ∧ s.rx (6 + 3) = 0x00 ∧ withinLimit s.cfg.pollLimit 3 ∧
      AllNotReady s (7 + 3) 3 ∧ s.rx (7 + 3 + 3) ≠ 0xFF ∧ s.rx (7 + 3 + 3) ≠ 0xFE ∧ withinLimit s.cfg.pollLimit 3 := by
  refine ⟨rfl, rfl, rfl, ?_, rfl, ?_, ?_, by decide, by decide, ?_⟩
  · unfold AllFiller; decide
  · show 3 < 4; decide
  · unfold AllNotReady; decide
  · show 3 < 4; decide

/-- V46 and V47, one clause each. -/
theorem witness_RdblkTimesOut :
    let s := { idle false (frameTime ++ [0xFF, 0xFF, 0xFF, 0xFF]) with cfg := bounded 4 }
    let u := { idle false (frameTime ++ [0x00, 0xFF, 0xFF, 0xFF, 0xFF]) with cfg := bounded 4 }
    (s.rst = false ∧ s.phase = .idle ∧ s.cs = false ∧ s.cfg.pollLimit = .upTo 4 ∧ AllFiller s 6 4) ∧
      (u.rst = false ∧ u.phase = .idle ∧ u.cs = false ∧ u.cfg.pollLimit = .upTo 4 ∧ AllFiller u 6 0 ∧ u.rx (6 + 0) = 0x00 ∧
        0 < 4 ∧ AllNotReady u (7 + 0) 4) := by
  refine ⟨⟨rfl, rfl, rfl, rfl, ?_⟩, ⟨rfl, rfl, rfl, rfl, ?_, rfl, by decide, ?_⟩⟩
  · unfold AllFiller; decide
  · unfold AllFiller; decide
  · unfold AllNotReady; decide

theorem witness_ReleaseEndsCycle : (idle true []).rst = false ∧ (idle true []).phase = .idle := by decide

/-- V62, the reference configuration, and the largest count. -/
theorem witness_PwrupClocksIdleBus :
    (idle true []).rst = false ∧ (idle true []).phase = .idle ∧ (idle true []).cfg.wf = true ∧
      Config.wf { Config.reference with powerupExchanges := 1 } = true ∧
      Config.wf { Config.reference with powerupExchanges := 512 } = true := by decide

/-- A step of each kind: the reset, `Select`, `Deselect`, an exchange, a payload byte, a step with no call. Meets the hypotheses of
ChipSelectFollowsCalls, OneExternalCallPerStep, CardAdvancesWithExchanges, DiagnosticSinkIsWriteOnly (its fault clause:
witness_RunningOperationIgnoresRequest) and ConfigurationIsFixed. -/
theorem witness_EveryStep :
    (nextOf (step { running .send .cfTx true [] with rst := true })).isSome = true ∧
    after (running .send .cfSel false []) State.trace = some [.select] ∧
    after (running .rdblk .brDesel true []) State.trace = some [.deselect] ∧
    after (running .rdblk .brStatus true [0xFF]) State.trace = some [.xchg 0xFF 0xFF] ∧
    after (running .rdblk .brData true [0x5A]) State.trace = some [.memWrite 0 0x5A, .xchg 0xFF 0x5A] ∧
    after (running .send .cfTx true [0x00]) State.trace = some [.xchg 0x40 0x00] ∧
    after (presenting 0x010000000000 false) State.trace = some [] := by decide +kernel

/-- Each way a step of a running operation can end, it goes on or it completes, and an acceptance. Meets the hypotheses of
OperandLatchesWrittenAtAcceptance and OnlyCompletionEndsOperation. -/
theorem witness_RunningSteps :
    let s := running .send .cfSel false []
    let u := running .release .rlTrail false [0x00]
    (s.rst = false ∧ s.phase ≠ .idle ∧ after s State.phase = some .cfTx) ∧
      (u.rst = false ∧ u.phase ≠ .idle ∧ after u (fun t => (t.phase, t.cur, t.results)) = some (.idle, .none, [.ok])) ∧
      after (presenting 0x030000000200 false) (fun t => (t.cur, t.idx, t.arg, t.phase)) = some (.rdblk, 17, 0x200, .cfSel) := by
  decide +kernel

/-- A step that changes each of the four registers. -/
theorem witness_ResultRegistersHaveOneWriter :
    after { running .resp .rrSkip true [0x01] with len := 1 } (fun t => (t.resp[0], t.rlen)) = some (0x01, 1) ∧
    after { presenting 0x020100000000 true with rlen := 3 } State.rlen = some 0 ∧
    after (running .rdblk .brStatus true [0x04]) State.status = some 0x04 ∧
    after (running .rdblk .brToken true [0x09]) State.token = some 0x09 ∧
    after { presenting 0x030000000000 false with status := 0x04, token := 0x09 } (fun t => (t.status, t.token)) = some (0xFF, 0xFF) := by
  decide +kernel

/-- The three clauses: untouched, a payload byte at the last index, a failed read. -/
theorem witness_BufferWrittenByPayloadOnly :
    Memory.wf State.reset.buf ∧
    after { running .rdblk .brData true [0x5A] with cnt := 511 } State.buf = some [(511, 0x5A)] ∧
    after { running .rdblk .brTrail false [] with kind := .timeout, buf := [(0, 0x5A)] }
      (fun t => (t.buf, t.bufEpoch)) = some ([], 1) ∧
    after { running .rdblk .brTrail false [] with kind := .ok, buf := [(0, 0x5A)] }
      (fun t => (t.buf, t.bufEpoch)) = some ([(0, 0x5A)], 0) := ⟨Memory.wf_nil, by decide +kernel, by decide +kernel, by decide +kernel⟩

/-- Every clause: a busy block, the registers, and the buffer at 511 (defined), at 510 (undefined) and at 512. -/
theorem witness_HostReadsOnlyWhenIdle :
    let s := { State.reset with buf := [(511, 0x5A)] }
    (running .send .cfTx true []).phase ≠ .idle ∧ s.phase = .idle ∧ s.rlen.toNat ≤ 5 ∧
      hostView { State.reset with resp := #v[0x05, 0xAA, 0, 0, 0], rlen := 2 } =
        some { kind := .ok, status := 0xFF, token := 0xFF, rlen := 2, resp := [0x05, 0xAA], cs := false } ∧
      Memory.read 511 s.buf = some 0x5A ∧ hostMemRead 511 s = some 0x5A ∧ Memory.read 510 s.buf = none ∧
      (hostMemRead 510 s).isSome = true ∧ hostMemRead 512 s = none := by decide

/-- A read in its token wait, with a finite limit, has the invariant: BlockInvariantKept and FiniteLimitTerminates. -/
theorem witness_Inv :
    let s := { running .rdblk .brToken true [] with cfg := bounded 4, status := 0x00, poll := 4 }
    Inv s ∧ s.rst = false ∧ s.phase ≠ .idle ∧ s.cur = .rdblk ∧ s.cfg.pollLimit = .upTo 4 := by
  refine ⟨⟨by decide, rfl, by decide, ?_, by decide, Memory.wf_nil, rfl, rfl, rfl, rfl⟩, rfl, by decide, rfl, rfl⟩
  show 4 ≤ 4
  decide

/-- The last step of a read that failed with each kind. -/
theorem witness_RdblkCompletionMatchesTable :
    let s := { running .rdblk .brTrail false [] with kind := .operationFailed, status := 0x04 }
    let u := { running .rdblk .brTrail false [] with kind := .tokenError, status := 0x00, token := 0x09 }
    let v := { running .rdblk .brTrail false [] with kind := .timeout }
    (Inv s ∧ s.rst = false ∧ s.cur = .rdblk ∧ after s State.phase = some .idle) ∧
      (Inv u ∧ u.rst = false ∧ u.cur = .rdblk ∧ after u State.phase = some .idle) ∧
      (Inv v ∧ v.rst = false ∧ v.cur = .rdblk ∧ after v State.phase = some .idle) := by
  refine ⟨⟨?_, rfl, rfl, by decide +kernel⟩, ⟨?_, rfl, rfl, by decide +kernel⟩, ⟨?_, rfl, rfl, by decide +kernel⟩⟩
  · exact ⟨by decide +kernel, rfl, by decide +kernel, trivial, by decide +kernel, Memory.wf_nil, rfl, rfl, by decide +kernel, by decide +kernel, rfl⟩
  · exact ⟨by decide +kernel, rfl, by decide +kernel, trivial, by decide +kernel, Memory.wf_nil, rfl, rfl, rfl, by decide +kernel, by decide +kernel⟩
  · exact ⟨by decide +kernel, rfl, by decide +kernel, trivial, by decide +kernel, Memory.wf_nil, rfl, rfl, .inl rfl, rfl⟩

/-- The host inside `INIT`, its RESP completed, and a step that has a next state: HostInvariantKept. -/
theorem witness_HostInv :
    let s := { State.reset with prog := .init .interfaceCheck .release, session := .idleConfirmed, cs := true, line := true }
    Inv s ∧ HostInv s ∧ s.prog = .init .interfaceCheck .release ∧ s.rst = false ∧ (nextOf (step s)).isSome = true := by
  refine ⟨⟨by decide +kernel, rfl, by decide +kernel, trivial, by decide +kernel, Memory.wf_nil, rfl⟩, ⟨rfl, ?_⟩, rfl, rfl, rfl⟩
  exact .inr (.inr ⟨⟨rfl, rfl⟩, rfl, .inl rfl⟩)

/-- A step of `INIT` inside which an operation completes. -/
theorem witness_InitNeverBreaksDiscipline :
    let s := { running .release .rlTrail false [0xFF] with prog := .init .reset .check }
    Inv s ∧ HostInv s ∧ s.prog = .init .reset .check ∧ s.rst = false ∧ after s State.results = some [.ok] := by
  refine ⟨⟨by decide +kernel, rfl, by decide +kernel, trivial, by decide +kernel, Memory.wf_nil, rfl, rfl⟩, ⟨rfl, .inl rfl, ?_⟩, rfl, rfl, by decide +kernel⟩
  exact .inr (.inl ⟨rfl, by decide +kernel, rfl⟩)

/-- The host's decisions: InitIssuesItsCommands, InitChecksIdleVoltageAndPattern, OperatingConditionLoop, CapacityModeDecidesReady,
RespTimeoutFailsInit and ReadIsGatedBySession, each clause in a state built from reset. -/
theorem witness_HostDecisions :
    let h (p : HostProg) : State := { State.reset with prog := p }
    (∀ p ∈ [HostProg.free, .init .reset .send, .init .opCondPrefix .send, .init .opCondQuery .resp, .init .capacityModeQuery .release,
        .init .reset .check, .init .interfaceCheck .check, .init .capabilitiesProbe .check, .init .opCondPrefix .check,
        .init .opCondQuery .check, .init .capacityModeQuery .check, .readWait],
      (h p).rst = false ∧ (h p).phase = .idle ∧ (h p).req = none ∧ (h p).respKind = .ok ∧ (h p).prog = p) ∧
    State.reset.cfg.opcondLimit = .inf ∧ limitReached State.reset.cfg.opcondLimit State.reset.iter = false ∧
    (let s := { h (.init .opCondPrefix .send) with cfg := { Config.reference with opcondLimit := .upTo 2 }, iter := 2 };
      s.rst = false ∧ s.phase = .idle ∧ s.req = none ∧ s.cfg.opcondLimit = .upTo 2 ∧ s.iter = 2) ∧
    (let s := { h (.init .reset .check) with respKind := .timeout };
      s.rst = false ∧ s.phase = .idle ∧ s.req = none ∧ s.respKind = .timeout) ∧
    (let s := { h .free with calls := [.init, .read 0x200] };
      s.prog = .free ∧ s.calls = .init :: [.read 0x200] ∧ s.session.isReady = false) ∧
    (let s := { h .free with calls := [.read 0x200], session := .ready .standard };
      s.prog = .free ∧ s.calls = .read 0x200 :: [] ∧ s.session.isReady = true) := by decide +kernel

/-- A block step while the host waits, and an acceptance. -/
theorem witness_BlockStepLeavesHostAlone :
    let s := { running .release .rlDesel true [] with prog := .init .reset .check }
    let u := presenting 0x040000000000 true
    (s.rst = false ∧ s.phase ≠ .idle ∧ (nextOf (step s)).isSome = true) ∧
      (u.rst = false ∧ u.req ≠ none ∧ (nextOf (step u)).isSome = true) := by decide +kernel

theorem witness_HostStepLeavesBlockAlone :
    let s := { State.reset with calls := [.init] }
    s.rst = false ∧ s.phase = .idle ∧ s.req = none ∧ (nextOf (step s)).isSome = true := by decide +kernel

theorem witness_TableModePlaceholder : ¬ ((58 : CmdIdx) = 0 ∧ (0 : Word) = 0) ∧ ¬ ((58 : CmdIdx) = 8 ∧ (0 : Word) = 0x1AA) ∧
    ck7 (.table 0x7F) 58 0 = 0x7F := by decide

theorem witness_ChecksumIsLinear : ([0x51, 0x00] : List Byte).length = ([0x00, 0x01] : List Byte).length := by decide

end Sys2Proof.Tests
end

/-! PROOFS. What one step adds to the record of external calls (spec/00_scope.md R11, spec/44_bus_control_ops.md R154,
spec/30_encoding.md R87). -/

namespace Sys2Proof.Machine

/-! ### The agents that make no call -/

/-- `t` is `s` but for the request port and the host's own fields (R23, R160). -/
def SameBlock (s t : State) : Prop :=
  t = { s with
    req := t.req, session := t.session, prog := t.prog, iter := t.iter
    hostResult := t.hostResult, respKind := t.respKind, calls := t.calls }

theorem SameBlock.trace {s t : State} (h : SameBlock s t) : t.trace = s.trace := by rw [h]

/-- Each decision of the Initialization Sequencer writes the host's fields only (R164 to R168). -/
theorem initCheck_sameBlock (st : SeqState) (s : State) : SameBlock s (initCheck st s) := by
  unfold initCheck
  split
  · rfl
  · cases st with
    | reset => dsimp only; split <;> rfl
    | interfaceCheck =>
      dsimp only
      split
      · rfl
      · split
        · rfl
        · split <;> rfl
    | capabilitiesProbe => rfl
    | opCondPrefix => rfl
    | opCondQuery => dsimp only; split <;> rfl
    | capacityModeQuery => rfl

theorem initStep_sameBlock (st : SeqState) (c : CmdStep) (s : State) : SameBlock s (initStep st c s) := by
  cases c with
  | send => unfold initStep; dsimp only; split <;> rfl
  | resp => rfl
  | release => rfl
  | check => exact initCheck_sameBlock st s

theorem readStart_sameBlock (addr : Word) (s : State) : SameBlock s (readStart addr s) := by
  unfold readStart; split <;> rfl

theorem takeCall_sameBlock (s : State) : SameBlock s (takeCall s) := by
  unfold takeCall
  split
  · rfl
  · rfl
  · rfl
  · rename_i addr rest _
    exact readStart_sameBlock addr { s with calls := rest }

/-- A host step writes the request port and the host's own fields only (R23, R160). -/
theorem hostStep_sameBlock (s : State) : SameBlock s (hostStep s) := by
  unfold hostStep
  split
  · exact takeCall_sameBlock s
  · exact initStep_sameBlock _ _ s
  · rfl

@[simp] theorem hostStep_trace (s : State) : (hostStep s).trace = s.trace := (hostStep_sameBlock s).trace

/-- A reset moves the line "with no external call" (R221). -/
@[simp] theorem resetStep_trace (s : State) : (resetStep s).trace = s.trace := by
  unfold resetStep blockReset; dsimp only; split <;> rfl

/-- Acceptance of an operation makes no call; its rows do (R30). -/
theorem exec_trace {i : Instr} {s t : State} (h : exec i s = .next t) : t.trace = s.trace := by
  rcases exec_cases h with ⟨-, rfl⟩ | ⟨-, rfl⟩ | ⟨-, hstart⟩
  · rfl
  · rfl
  · rcases hstart with ⟨_, _, -, -, rfl⟩ | ⟨_, -, -, rfl⟩ | ⟨_, -, -, rfl⟩ | ⟨-, rfl⟩ | ⟨-, rfl⟩ <;> rfl

/-! ### The calls of a running operation -/

/-- The six ways in which the record of external calls grows from `s` to `t` (R11): at most one call, a payload exchange with the
store of its byte; the byte sent is the frame byte at `cnt` or filler (R87). -/
def OneCall (s t : State) : Prop :=
  t.trace = s.trace ∨ t.trace = .select :: s.trace ∨ t.trace = .deselect :: s.trace ∨
    t.trace = .xchg fill (s.rx 0) :: s.trace ∨
    (s.phase = .cfTx ∧ ∃ tx, frameByte s.cfg.cksumMode s.idx s.arg s.cnt.toNat = some tx ∧
      t.trace = .xchg tx (s.rx 0) :: s.trace) ∨
    (s.phase = .brData ∧ t.trace = .memWrite s.cnt.toNat (s.rx 0) :: .xchg fill (s.rx 0) :: s.trace)

theorem OneCall.none {s t : State} (h : t.trace = s.trace) : OneCall s t := .inl h

theorem OneCall.select {s t : State} (h : t.trace = .select :: s.trace) : OneCall s t := .inr (.inl h)

theorem OneCall.deselect {s t : State} (h : t.trace = .deselect :: s.trace) : OneCall s t := .inr (.inr (.inl h))

theorem OneCall.filler {s t : State} (h : t.trace = .xchg fill (s.rx 0) :: s.trace) : OneCall s t :=
  .inr (.inr (.inr (.inl h)))

theorem OneCall.frame {s t : State} {tx : Byte} (hp : s.phase = .cfTx)
    (htx : frameByte s.cfg.cksumMode s.idx s.arg s.cnt.toNat = some tx)
    (h : t.trace = .xchg tx (s.rx 0) :: s.trace) : OneCall s t := .inr (.inr (.inr (.inr (.inl ⟨hp, tx, htx, h⟩))))

theorem OneCall.payload {s t : State} (hp : s.phase = .brData)
    (h : t.trace = .memWrite s.cnt.toNat (s.rx 0) :: .xchg fill (s.rx 0) :: s.trace) : OneCall s t :=
  .inr (.inr (.inr (.inr (.inr ⟨hp, h⟩))))

/-- Each row of the phase table makes at most one call (R28): the deadline of a poll makes none, `CF_SEL` selects, the `DESEL` rows
deselect, `CF_TX` sends a frame byte, `BR_DATA` stores what it reads, and every other exchange sends filler. -/
theorem phaseStep_oneCall {s t : State} (h : phaseStep s = .next t) : OneCall s t := by
  cases hp : s.phase with
  | idle =>
    simp only [phaseStep, hp, Host.Outcome.next.injEq] at h
    exact .none (h ▸ rfl)
  | cfSel =>
    rw [phaseStep_cfSel hp] at h
    exact .select (cfSel_cases h ▸ rfl)
  | cfTx =>
    rw [phaseStep_cfTx hp] at h
    obtain ⟨tx, htx, hrow⟩ := cfTx_cases h
    refine .frame hp htx ?_
    rcases hrow with ⟨-, rfl⟩ | ⟨-, -, rfl⟩ | ⟨-, -, rfl⟩ <;> rfl
  | rrSkip =>
    rw [phaseStep_rrSkip hp] at h
    rcases rrSkip_cases h with ⟨-, rfl⟩ | ⟨-, -, rfl⟩ | ⟨-, -, -, rfl⟩ | ⟨-, -, -, rfl⟩
    · exact .none rfl
    all_goals exact .filler rfl
  | rrRest =>
    rw [phaseStep_rrRest hp] at h
    obtain ⟨_, ⟨-, rfl⟩ | ⟨-, rfl⟩⟩ := rrRest_cases h <;> exact .filler rfl
  | brStatus =>
    rw [phaseStep_brStatus hp] at h
    rcases brStatus_cases h with ⟨-, rfl⟩ | ⟨-, -, rfl⟩ | ⟨-, -, -, rfl⟩ | ⟨-, -, -, rfl⟩
    · exact .none rfl
    all_goals exact .filler rfl
  | brToken =>
    rw [phaseStep_brToken hp] at h
    rcases brToken_cases h with ⟨-, rfl⟩ | ⟨-, -, rfl⟩ | ⟨-, -, -, rfl⟩ | ⟨-, -, -, rfl⟩
    · exact .none rfl
    all_goals exact .filler rfl
  | brData =>
    rw [phaseStep_brData hp] at h
    obtain ⟨-, ⟨-, rfl⟩ | ⟨-, rfl⟩⟩ := brData_cases h <;> exact .payload hp rfl
  | brCrc =>
    rw [phaseStep_brCrc hp] at h
    rcases brCrc_cases h with ⟨-, rfl⟩ | ⟨-, rfl⟩ <;> exact .filler rfl
  | brDesel =>
    rw [phaseStep_brDesel hp] at h
    exact .deselect (brDesel_cases h ▸ rfl)
  | brTrail =>
    rw [phaseStep_brTrail hp] at h
    rcases brTrail_cases h with ⟨-, rfl⟩ | ⟨-, rfl⟩ <;> exact .filler rfl
  | rlDesel =>
    rw [phaseStep_rlDesel hp] at h
    exact .deselect (rlDesel_cases h ▸ rfl)
  | rlTrail =>
    rw [phaseStep_rlTrail hp] at h
    exact .filler (rlTrail_cases h ▸ rfl)
  | puDesel =>
    rw [phaseStep_puDesel hp] at h
    exact .deselect (puDesel_cases h ▸ rfl)
  | puClk =>
    rw [phaseStep_puClk hp] at h
    rcases puClk_cases h with ⟨-, rfl⟩ | ⟨-, rfl⟩ <;> exact .filler rfl

/-- Settles O22: only a running operation makes calls, and each row of the phase table makes at most one. -/
theorem oneExternalCallPerStep : Obligations.OneExternalCallPerStep := by
  intro s t h
  change OneCall s t
  rcases step_cases h with ⟨-, rfl⟩ | ⟨-, -, hrow⟩ | ⟨-, -, w, -, i, -, hexec⟩ | ⟨-, -, w, -, -, rfl⟩ | ⟨-, -, -, rfl⟩
  · exact .none (resetStep_trace s)
  · exact phaseStep_oneCall hrow
  · exact .none ((exec_trace hexec).trans (takeReq_trace s))
  · exact .none ((raise_trace ..).trans (takeReq_trace s))
  · exact .none (hostStep_trace s)

end Sys2Proof.Machine

/-! PROOFS. The rules of the state (spec/10_state.md R20 to R41): the transitions of the phase table and of an idle block as two
inductive relations, each tied to the step function once; who writes what; the invariant of the block. -/

namespace Sys2Proof.Machine

/-! ### The transitions of a running operation -/

/-- The phase table of R28, one constructor for each way a row can go. -/
inductive RowMove (s : State) : State → Prop
  | cfSel (hp : s.phase = .cfSel) : RowMove s { select s with cnt := 0, phase := .cfTx }
  | cfTxByte (hp : s.phase = .cfTx) (tx : Byte) (hc : s.cnt.toNat < 5) : RowMove s { xchg tx s with cnt := s.cnt + 1 }
  | cfTxSend (hp : s.phase = .cfTx) (tx : Byte) (hcur : s.cur = .send) :
      RowMove s (complete .ok { xchg tx s with diag := .cmd s.idx s.arg :: (xchg tx s).diag })
  | cfTxRdblk (hp : s.phase = .cfTx) (tx : Byte) (hcur : s.cur = .rdblk) :
      RowMove s { xchg tx s with diag := .cmd s.idx s.arg :: (xchg tx s).diag, poll := 0, phase := .brStatus }
  | rrSkipTimeout (hp : s.phase = .rrSkip) : RowMove s (completeResp .timeout s)
  | rrSkipFiller (hp : s.phase = .rrSkip) (hl : limitReached s.cfg.pollLimit s.poll = false) :
      RowMove s { xchg fill s with poll := s.poll + 1 }
  | rrSkipOnly (hp : s.phase = .rrSkip) (hl : limitReached s.cfg.pollLimit s.poll = false) :
      RowMove s (completeResp .ok { xchg fill s with poll := s.poll + 1, resp := s.resp.set 0 (s.rx 0), rlen := 1 })
  | rrSkipFirst (hp : s.phase = .rrSkip) (hl : limitReached s.cfg.pollLimit s.poll = false) (hlen : s.len ≠ 1) :
      RowMove s { xchg fill s with
        poll := s.poll + 1, resp := s.resp.set 0 (s.rx 0), rlen := 1, cnt := 1, phase := .rrRest }
  | rrRestLast (hp : s.phase = .rrRest) (hc : s.cnt.toNat < 5) :
      RowMove s (completeResp .ok { xchg fill s with
        resp := s.resp.set s.cnt.toNat (s.rx 0) hc, rlen := BitVec.ofNat 3 (s.cnt.toNat + 1) })
  | rrRestNext (hp : s.phase = .rrRest) (hc : s.cnt.toNat < 5) (hlen : s.cnt.toNat + 1 ≠ s.len.toNat) :
      RowMove s { xchg fill s with
        resp := s.resp.set s.cnt.toNat (s.rx 0) hc, rlen := BitVec.ofNat 3 (s.cnt.toNat + 1), cnt := s.cnt + 1 }
  | brStatusTimeout (hp : s.phase = .brStatus) : RowMove s { s with kind := .timeout, phase := .brDesel }
  | brStatusFiller (hp : s.phase = .brStatus) (hl : limitReached s.cfg.pollLimit s.poll = false) :
      RowMove s { xchg fill s with poll := s.poll + 1 }
  | brStatusError (hp : s.phase = .brStatus) (hl : limitReached s.cfg.pollLimit s.poll = false)
      (hf : isFiller (s.rx 0) = false) (he : isErrorStatus (s.rx 0) = true) :
      RowMove s { xchg fill s with poll := s.poll + 1, status := s.rx 0, kind := .operationFailed, phase := .brDesel }
  | brStatusZero (hp : s.phase = .brStatus) (he : isErrorStatus (s.rx 0) = false) :
      RowMove s { xchg fill s with poll := 0, status := s.rx 0, phase := .brToken }
  | brTokenTimeout (hp : s.phase = .brToken) : RowMove s { s with kind := .timeout, phase := .brDesel }
  | brTokenNotReady (hp : s.phase = .brToken) (hl : limitReached s.cfg.pollLimit s.poll = false) :
      RowMove s { xchg fill s with poll := s.poll + 1 }
  | brTokenStart (hp : s.phase = .brToken) (hl : limitReached s.cfg.pollLimit s.poll = false)
      (hs : isStartToken (s.rx 0) = true) :
      RowMove s { xchg fill s with poll := s.poll + 1, token := s.rx 0, cnt := 0, phase := .brData }
  | brTokenError (hp : s.phase = .brToken) (hl : limitReached s.cfg.pollLimit s.poll = false)
      (ht : isToken (s.rx 0) = true) (hs : isStartToken (s.rx 0) = false) :
      RowMove s { xchg fill s with poll := s.poll + 1, token := s.rx 0, kind := .tokenError, phase := .brDesel }
  | brDataLast (hp : s.phase = .brData) (hc : s.cnt = 511) :
      RowMove s { memWrite s.cnt.toNat (s.rx 0) (xchg fill s) with cnt := 0, phase := .brCrc }
  | brDataNext (hp : s.phase = .brData) (hb : s.cnt.toNat < blockLen) (hc : s.cnt ≠ 511) :
      RowMove s { memWrite s.cnt.toNat (s.rx 0) (xchg fill s) with cnt := s.cnt + 1 }
  | brCrcFirst (hp : s.phase = .brCrc) : RowMove s { xchg fill s with cnt := 1 }
  | brCrcLast (hp : s.phase = .brCrc) : RowMove s { xchg fill s with kind := .ok, phase := .brDesel }
  | brDesel (hp : s.phase = .brDesel) : RowMove s { deselect s with phase := .brTrail }
  | brTrailOk (hp : s.phase = .brTrail) (hk : s.kind = .ok) : RowMove s (complete .ok (xchg fill s))
  | brTrailFailed (hp : s.phase = .brTrail) (hk : s.kind ≠ .ok) : RowMove s (bufUndefined (complete s.kind (xchg fill s)))
  | rlDesel (hp : s.phase = .rlDesel) : RowMove s { deselect s with phase := .rlTrail }
  | rlTrail (hp : s.phase = .rlTrail) : RowMove s (complete .ok (xchg fill s))
  | puDesel (hp : s.phase = .puDesel) : RowMove s { deselect s with cnt := 0, phase := .puClk }
  | puClkLast (hp : s.phase = .puClk) : RowMove s (complete .ok (xchg fill s))
  | puClkNext (hp : s.phase = .puClk) (hc : s.cnt.toNat ≠ s.cfg.powerupExchanges - 1) :
      RowMove s { xchg fill s with cnt := s.cnt + 1 }

/-- A step of a running operation is a transition of the phase table (R28). -/
theorem rowMove_of_phaseStep {s t : State} (hbusy : s.phase ≠ .idle) (h : phaseStep s = .next t) : RowMove s t := by
  cases hp : s.phase with
  | idle => exact absurd hp hbusy
  | cfSel =>
    rw [phaseStep_cfSel hp] at h
    exact cfSel_cases h ▸ .cfSel hp
  | cfTx =>
    rw [phaseStep_cfTx hp] at h
    obtain ⟨tx, -, ⟨hc, rfl⟩ | ⟨-, hcur, rfl⟩ | ⟨-, hcur, rfl⟩⟩ := cfTx_cases h
    · exact .cfTxByte hp tx hc
    · exact .cfTxSend hp tx hcur
    · exact .cfTxRdblk hp tx hcur
  | rrSkip =>
    rw [phaseStep_rrSkip hp] at h
    rcases rrSkip_cases h with ⟨-, rfl⟩ | ⟨hl, -, rfl⟩ | ⟨hl, -, -, rfl⟩ | ⟨hl, -, hlen, rfl⟩
    · exact .rrSkipTimeout hp
    · exact .rrSkipFiller hp hl
    · exact .rrSkipOnly hp hl
    · exact .rrSkipFirst hp hl hlen
  | rrRest =>
    rw [phaseStep_rrRest hp] at h
    obtain ⟨hc, ⟨-, rfl⟩ | ⟨hlen, rfl⟩⟩ := rrRest_cases h
    · exact .rrRestLast hp hc
    · exact .rrRestNext hp hc hlen
  | brStatus =>
    rw [phaseStep_brStatus hp] at h
    rcases brStatus_cases h with ⟨-, rfl⟩ | ⟨hl, -, rfl⟩ | ⟨hl, hf, he, rfl⟩ | ⟨-, -, he, rfl⟩
    · exact .brStatusTimeout hp
    · exact .brStatusFiller hp hl
    · exact .brStatusError hp hl hf he
    · exact .brStatusZero hp he
  | brToken =>
    rw [phaseStep_brToken hp] at h
    rcases brToken_cases h with ⟨-, rfl⟩ | ⟨hl, -, rfl⟩ | ⟨hl, -, hs, rfl⟩ | ⟨hl, ht, hs, rfl⟩
    · exact .brTokenTimeout hp
    · exact .brTokenNotReady hp hl
    · exact .brTokenStart hp hl hs
    · exact .brTokenError hp hl ht hs
  | brData =>
    rw [phaseStep_brData hp] at h
    obtain ⟨hb, ⟨hc, rfl⟩ | ⟨hc, rfl⟩⟩ := brData_cases h
    · exact .brDataLast hp hc
    · exact .brDataNext hp hb hc
  | brCrc =>
    rw [phaseStep_brCrc hp] at h
    rcases brCrc_cases h with ⟨-, rfl⟩ | ⟨-, rfl⟩
    · exact .brCrcFirst hp
    · exact .brCrcLast hp
  | brDesel =>
    rw [phaseStep_brDesel hp] at h
    exact brDesel_cases h ▸ .brDesel hp
  | brTrail =>
    rw [phaseStep_brTrail hp] at h
    rcases brTrail_cases h with ⟨hk, rfl⟩ | ⟨hk, rfl⟩
    · exact .brTrailOk hp hk
    · exact .brTrailFailed hp hk
  | rlDesel =>
    rw [phaseStep_rlDesel hp] at h
    exact rlDesel_cases h ▸ .rlDesel hp
  | rlTrail =>
    rw [phaseStep_rlTrail hp] at h
    exact rlTrail_cases h ▸ .rlTrail hp
  | puDesel =>
    rw [phaseStep_puDesel hp] at h
    exact puDesel_cases h ▸ .puDesel hp
  | puClk =>
    rw [phaseStep_puClk hp] at h
    rcases puClk_cases h with ⟨-, rfl⟩ | ⟨hc, rfl⟩
    · exact .puClkLast hp
    · exact .puClkNext hp hc

/-! ### The transitions of an idle block -/

/-- What a step of an idle block can do: the host moves, a presented word is refused (R30 (1), (2)), or its operation starts
(R30 (3)). -/
inductive IdleMove (s : State) : State → Prop
  | host : IdleMove s (hostStep s)
  | refused (k : Kind) : IdleMove s (raise k (takeReq s))
  | send (w : OpWord) (hw : s.req = some w) (idx : CmdIdx) (arg : Word) (hd : decodeOpw w = .ok (.send idx arg))
      (hcs : s.cs = false) : IdleMove s { takeReq s with cur := .send, idx := idx, arg := arg, phase := .cfSel }
  | resp (w : OpWord) (hw : s.req = some w) (l : RespLen) (hd : decodeOpw w = .ok (respOf l)) (hcs : s.cs = true) :
      IdleMove s { takeReq s with cur := .resp, len := lenOf l, rlen := 0, poll := 0, phase := .rrSkip }
  | rdblk (w : OpWord) (hw : s.req = some w) (addr : Word) (hd : decodeOpw w = .ok (.rdblk addr)) (hcs : s.cs = false) :
      IdleMove s { takeReq s with
        cur := .rdblk, idx := readBlockIdx, arg := addr, status := 0xFF, token := 0xFF, phase := .cfSel }
  | release (w : OpWord) (hw : s.req = some w) (hd : decodeOpw w = .ok .release) :
      IdleMove s { takeReq s with cur := .release, phase := .rlDesel }
  | pwrup (w : OpWord) (hw : s.req = some w) (hd : decodeOpw w = .ok .pwrup) :
      IdleMove s { takeReq s with cur := .pwrup, phase := .puDesel }

theorem idleMove_of_exec {s t : State} {w : OpWord} {i : Instr} (hp : s.phase = .idle) (hw : s.req = some w)
    (hd : decodeOpw w = .ok i) (h : exec i (takeReq s) = .next t) : IdleMove s t := by
  rcases exec_cases h with ⟨hbusy, -⟩ | ⟨-, rfl⟩ | ⟨-, hstart⟩
  · exact absurd hp hbusy
  · exact .refused _
  · rcases hstart with ⟨idx, arg, rfl, hcs, rfl⟩ | ⟨l, rfl, hcs, rfl⟩ | ⟨addr, rfl, hcs, rfl⟩ | ⟨rfl, rfl⟩ | ⟨rfl, rfl⟩
    · exact .send w hw idx arg hd hcs
    · exact .resp w hw l hd hcs
    · exact .rdblk w hw addr hd hcs
    · exact .release w hw hd
    · exact .pwrup w hw hd

/-- Every step is the reset, a transition of the phase table, or a move of an idle block (R221, R28, R30). -/
theorem step_moves {s t : State} (h : step s = .next t) :
    (s.rst = true ∧ t = resetStep s) ∨ (s.rst = false ∧ s.phase ≠ .idle ∧ RowMove s t) ∨
      (s.rst = false ∧ s.phase = .idle ∧ IdleMove s t) := by
  rcases step_cases h with ⟨hr, ht⟩ | ⟨hr, hp, hrow⟩ | ⟨hr, hp, w, hw, i, hd, hexec⟩ | ⟨hr, hp, w, -, -, rfl⟩ | ⟨hr, hp, -, rfl⟩
  · exact .inl ⟨hr, ht⟩
  · exact .inr (.inl ⟨hr, hp, rowMove_of_phaseStep hp hrow⟩)
  · exact .inr (.inr ⟨hr, hp, idleMove_of_exec hp hw hd hexec⟩)
  · exact .inr (.inr ⟨hr, hp, .refused _⟩)
  · exact .inr (.inr ⟨hr, hp, .host⟩)

theorem rowMove_of_step {s t : State} (hr : s.rst = false) (hp : s.phase ≠ .idle) (h : step s = .next t) : RowMove s t :=
  rowMove_of_phaseStep hp ((step_of_busy hr hp).symm.trans h)

theorem idleMove_of_step {s t : State} (hr : s.rst = false) (hp : s.phase = .idle) (h : step s = .next t) : IdleMove s t := by
  rcases step_moves h with ⟨hr', -⟩ | ⟨-, hp', -⟩ | ⟨-, -, hm⟩
  · simp [hr] at hr'
  · exact absurd hp hp'
  · exact hm

/-! ### What a transition leaves unchanged -/

section
variable {s t : State}

/-- The rows write neither the configuration nor an operand latch (R21, R32). -/
theorem RowMove.latches (h : RowMove s t) : t.cfg = s.cfg ∧ t.idx = s.idx ∧ t.arg = s.arg ∧ t.len = s.len := by
  cases h <;> exact ⟨rfl, rfl, rfl, rfl⟩

/-- The rows end an operation by `Complete` only (R31). -/
theorem RowMove.ends (h : RowMove s t) :
    (t.phase = .idle ∧ t.cur = .none ∧ t.results = t.kind :: s.results ∧ t.abandoned = false) ∨
      (t.phase ≠ .idle ∧ t.cur = s.cur ∧ t.results = s.results ∧ t.abandoned = s.abandoned) := by
  cases h
  case cfTxSend | rrSkipTimeout | rrSkipOnly | rrRestLast | brTrailOk | brTrailFailed | rlTrail | puClkLast =>
    exact .inl ⟨rfl, rfl, rfl, rfl⟩
  all_goals exact .inr ⟨by simp [*], rfl, rfl, rfl⟩

/-- `RESP` and `RLEN` are written by the two rows of RESP (R22). -/
theorem RowMove.resp (h : RowMove s t) : s.phase = .rrSkip ∨ s.phase = .rrRest ∨ (t.resp = s.resp ∧ t.rlen = s.rlen) := by
  cases h
  case rrSkipTimeout hp | rrSkipFiller hp _ | rrSkipOnly hp _ | rrSkipFirst hp _ _ => exact .inl hp
  case rrRestLast hp _ | rrRestNext hp _ _ => exact .inr (.inl hp)
  all_goals exact .inr (.inr ⟨rfl, rfl⟩)

/-- `STATUS` is written by `BR_STATUS` (R22). -/
theorem RowMove.status (h : RowMove s t) : s.phase = .brStatus ∨ t.status = s.status := by
  cases h
  case brStatusTimeout hp | brStatusFiller hp _ | brStatusError hp _ _ _ | brStatusZero hp _ => exact .inl hp
  all_goals exact .inr rfl

/-- `TOKEN` is written by `BR_TOKEN` (R22). -/
theorem RowMove.token (h : RowMove s t) : s.phase = .brToken ∨ t.token = s.token := by
  cases h
  case brTokenTimeout hp | brTokenNotReady hp _ | brTokenStart hp _ _ | brTokenError hp _ _ _ => exact .inl hp
  all_goals exact .inr rfl

/-- `cs` and the calls of a transition (R24): set with `Select`, cleared with `Deselect`, else kept with neither call made. -/
def CsFollowsCall (s t : State) : Prop :=
  ∃ new, t.trace = new ++ s.trace ∧
    ((t.cs = true ∧ new = [Call.select]) ∨ (t.cs = false ∧ new = [Call.deselect]) ∨
      (t.cs = s.cs ∧ Call.select ∉ new ∧ Call.deselect ∉ new))

theorem CsFollowsCall.noCall (hcs : t.cs = s.cs) (ht : t.trace = s.trace) : CsFollowsCall s t :=
  ⟨[], ht, .inr (.inr ⟨hcs, by simp, by simp⟩)⟩

theorem CsFollowsCall.exchange (tx rx : Byte) (hcs : t.cs = s.cs) (ht : t.trace = .xchg tx rx :: s.trace) :
    CsFollowsCall s t := ⟨[.xchg tx rx], ht, .inr (.inr ⟨hcs, by simp, by simp⟩)⟩

theorem CsFollowsCall.store (i : Nat) (b tx rx : Byte) (hcs : t.cs = s.cs)
    (ht : t.trace = .memWrite i b :: .xchg tx rx :: s.trace) : CsFollowsCall s t :=
  ⟨[.memWrite i b, .xchg tx rx], ht, .inr (.inr ⟨hcs, by simp, by simp⟩)⟩

theorem RowMove.csFollowsCall (h : RowMove s t) : CsFollowsCall s t := by
  cases h
  case cfSel => exact ⟨[.select], rfl, .inl ⟨rfl, rfl⟩⟩
  case brDesel | rlDesel | puDesel => exact ⟨[.deselect], rfl, .inr (.inl ⟨rfl, rfl⟩)⟩
  case rrSkipTimeout | brStatusTimeout | brTokenTimeout => exact .noCall rfl rfl
  case brDataLast | brDataNext => exact .store _ _ _ _ rfl rfl
  all_goals exact .exchange _ _ rfl rfl

theorem IdleMove.csFollowsCall (h : IdleMove s t) : CsFollowsCall s t := by
  cases h
  case host => exact .noCall (by rw [hostStep_sameBlock s]) (hostStep_trace s)
  all_goals exact .noCall rfl rfl

theorem IdleMove.cfg (h : IdleMove s t) : t.cfg = s.cfg := by
  cases h
  case host => rw [hostStep_sameBlock s]
  all_goals rfl

end

@[simp] theorem resetStep_cfg (s : State) : (resetStep s).cfg = s.cfg := by
  unfold resetStep blockReset; dsimp only; split <;> rfl

end Sys2Proof.Machine

/-! PROOFS. The rules of the state that follow from its transitions: writers, completion, the request port, reset, the host's view
(spec/10_state.md R20 to R41). -/

namespace Sys2Proof.Machine

/-! ### Chip select, configuration, latches, completion, result registers -/

theorem CsFollowsCall.outsideReset {s t : State} (h : CsFollowsCall s t) (hr : s.rst = false) :
    ∃ new, t.trace = new ++ s.trace ∧
      ((s.rst = true ∧ t.cs = false ∧ new = []) ∨ (s.rst = false ∧ t.cs = true ∧ new = [Call.select]) ∨
        (s.rst = false ∧ t.cs = false ∧ new = [Call.deselect]) ∨
        (s.rst = false ∧ t.cs = s.cs ∧ Call.select ∉ new ∧ Call.deselect ∉ new)) := by
  obtain ⟨new, htrace, hcs⟩ := h
  exact ⟨new, htrace, .inr (by simpa [hr] using hcs)⟩

/-- Settles O21: by the transitions, a reset moving the line with no call. -/
theorem chipSelectFollowsCalls : Obligations.ChipSelectFollowsCalls := by
  intro s t h
  rcases step_moves h with ⟨hr, rfl⟩ | ⟨hr, -, hrow⟩ | ⟨hr, -, hidle⟩
  · exact ⟨[], resetStep_trace s, .inl ⟨hr, rfl, rfl⟩⟩
  · exact hrow.csFollowsCall.outsideReset hr
  · exact hidle.csFollowsCall.outsideReset hr

/-- Settles O29: the reset, the rows and an idle block all leave the parameters. -/
theorem configurationIsFixed : Obligations.ConfigurationIsFixed := by
  intro s t h
  rcases step_moves h with ⟨-, rfl⟩ | ⟨-, -, hrow⟩ | ⟨-, -, hidle⟩
  · exact resetStep_cfg s
  · obtain ⟨hcfg, -⟩ := hrow.latches
    exact hcfg
  · exact hidle.cfg

/-- Settles O25: the rows leave an operation by `Complete` only. -/
theorem onlyCompletionEndsOperation : Obligations.OnlyCompletionEndsOperation :=
  fun _ _ hr hp h => (rowMove_of_step hr hp h).ends

/-- Settles O24: the rows write no latch, and an idle block writes those of the operation it starts. -/
theorem operandLatchesWrittenAtAcceptance : Obligations.OperandLatchesWrittenAtAcceptance := by
  intro s t hr h
  refine ⟨fun hp => ?_, fun hp => ?_⟩
  · have hrow := rowMove_of_step hr hp h
    obtain ⟨-, hidx, harg, hlen⟩ := hrow.latches
    refine ⟨hidx, harg, hlen, ?_⟩
    rcases hrow.ends with ⟨hidle, hcur, -⟩ | ⟨-, hcur, -⟩
    · exact .inr ⟨hcur, hidle⟩
    · exact .inl hcur
  · cases idleMove_of_step hr hp h with
    | host => rw [hostStep_sameBlock s]; exact .inl ⟨rfl, rfl, rfl, rfl⟩
    | refused => exact .inl ⟨rfl, rfl, rfl, rfl⟩
    | send w hw idx arg hd => exact .inr ⟨w, _, hw, hd, by simp, rfl, rfl, rfl, rfl⟩
    | resp w hw l hd => cases l <;> exact .inr ⟨w, _, hw, hd, by simp, rfl, rfl, rfl, rfl⟩
    | rdblk w hw addr hd => exact .inr ⟨w, _, hw, hd, by simp, rfl, rfl, rfl, rfl⟩
    | release w hw hd => exact .inr ⟨w, _, hw, hd, by simp, rfl, rfl, rfl, rfl⟩
    | pwrup w hw hd => exact .inr ⟨w, _, hw, hd, by simp, rfl, rfl, rfl, rfl⟩

/-- Settles O26: the rows of RESP and RDBLK write their own registers, and so does the acceptance of each. -/
theorem resultRegistersHaveOneWriter : Obligations.ResultRegistersHaveOneWriter := by
  intro s t hr h
  rcases step_moves h with ⟨hr', -⟩ | ⟨-, -, hrow⟩ | ⟨-, hp, hidle⟩
  · simp [hr] at hr'
  · have hresp := hrow.resp
    have hstatus := hrow.status
    have htoken := hrow.token
    tauto
  · cases hidle with
    | host => rw [hostStep_sameBlock s]; simp
    | resp => exact ⟨by simp, fun _ => .inr (.inr ⟨hp, rfl, rfl⟩), by simp, by simp⟩
    | rdblk => exact ⟨by simp, by simp, fun _ => .inr ⟨hp, rfl, rfl⟩, fun _ => .inr ⟨hp, rfl, rfl⟩⟩
    | refused | send | release | pwrup => simp

/-! ### What the steps do not read: the request port of a busy block, and the diagnostic sink -/

/-- The step's outcome with its next state rewritten. -/
def onNext (f : State → State) : Result → Result
  | .next t => .next (f t)
  | .fault r => .fault r
  | .refused r => .refused r

theorem onNext_eq_next {f : State → State} {r : Result} {t : State} (h : onNext f r = .next t) :
    ∃ u, r = .next u ∧ f u = t := by
  cases r <;> simp_all [onNext]

theorem onNext_eq_fault {f : State → State} {r : Result} {e : Fault} (h : onNext f r = .fault e) : r = .fault e := by
  cases r <;> simp_all [onNext]

/-- `s` with the port rewritten and older events in the sink. -/
def relabel (port : Option OpWord → Option OpWord) (older : List DiagEvent) (s : State) : State :=
  { s with req := port s.req, diag := s.diag ++ older }

section
variable (port : Option OpWord → Option OpWord) (older : List DiagEvent) (s : State)

theorem cfTx_relabel : cfTx (relabel port older s) = onNext (relabel port older) (cfTx s) := by
  have hbyte : frameByte (relabel port older s).cfg.cksumMode (relabel port older s).idx (relabel port older s).arg
      (relabel port older s).cnt.toNat = frameByte s.cfg.cksumMode s.idx s.arg s.cnt.toNat := rfl
  unfold cfTx
  rw [hbyte]
  cases frameByte s.cfg.cksumMode s.idx s.arg s.cnt.toNat with
  | none => rfl
  | some tx => simp only [apply_ite (onNext _)]; rfl

theorem rrRest_relabel : rrRest (relabel port older s) = onNext (relabel port older) (rrRest s) := by
  simp only [rrRest, apply_dite (onNext _), apply_ite (onNext _)]; rfl

/-- The rows of the phase table read neither the port (R40) nor the sink (R39). -/
theorem phaseStep_relabel : phaseStep (relabel port older s) = onNext (relabel port older) (phaseStep s) := by
  have hphase : (relabel port older s).phase = s.phase := rfl
  unfold phaseStep
  rw [hphase]
  cases s.phase with
  | cfTx => exact cfTx_relabel port older s
  | rrRest => exact rrRest_relabel port older s
  | rrSkip => simp only [rrSkip, apply_ite (onNext _)]; rfl
  | brStatus => simp only [brStatus, apply_ite (onNext _)]; rfl
  | brToken => simp only [brToken, apply_ite (onNext _)]; rfl
  | brData => simp only [brData, apply_ite (onNext _)]; rfl
  | brCrc => simp only [brCrc, apply_ite (onNext _)]; rfl
  | brTrail => simp only [brTrail, apply_ite (onNext _)]; rfl
  | puClk => simp only [puClk, apply_ite (onNext _)]; rfl
  | idle | cfSel | brDesel | rlDesel | rlTrail | puDesel => rfl

end

/-- Settles O6: the rows do not read the port. -/
theorem runningOperationIgnoresRequest : Obligations.RunningOperationIgnoresRequest := by
  intro s r hr hp
  have hrelabel : relabel (fun _ => r) [] = fun t => { t with req := r } := by funext t; simp [relabel]
  have hstep : step { s with req := r } = onNext (fun t => { t with req := r }) (step s) := by
    rw [step_of_busy hr hp, step_of_busy (s := { s with req := r }) hr hp, ← hrelabel, ← phaseStep_relabel, hrelabel]
  exact ⟨fun t h => by rw [hstep, h]; rfl, fun f h => by rw [hstep, h]; rfl⟩

/-- `s` with older events in the sink. -/
abbrev withOlder (older : List DiagEvent) (s : State) : State := relabel id older s

section
variable (older : List DiagEvent) (s : State)

theorem resetStep_withOlder : resetStep (withOlder older s) = withOlder older (resetStep s) := by
  have hcur : (withOlder older s).cur = s.cur := rfl
  unfold resetStep blockReset
  rw [hcur]
  split <;> rfl

theorem exec_withOlder (i : Instr) : exec i (withOlder older s) = onNext (withOlder older) (exec i s) := by
  cases i <;>
    simp only [exec, execSend, execResp1, execResp2, execResp5, acceptResp, execRdblk, execRelease, execPwrup, accept,
      apply_ite (onNext _)] <;> rfl

theorem initCheck_withOlder (st : SeqState) : initCheck st (withOlder older s) = withOlder older (initCheck st s) := by
  cases st <;> simp only [initCheck, apply_ite (withOlder older)] <;> rfl

theorem initStep_withOlder (st : SeqState) (c : CmdStep) :
    initStep st c (withOlder older s) = withOlder older (initStep st c s) := by
  cases c with
  | send => simp only [initStep, apply_ite (withOlder older)]; rfl
  | resp | release => rfl
  | check => exact initCheck_withOlder older s st

theorem readStart_withOlder (addr : Word) : readStart addr (withOlder older s) = withOlder older (readStart addr s) := by
  simp only [readStart, apply_ite (withOlder older)]; rfl

theorem takeCall_withOlder : takeCall (withOlder older s) = withOlder older (takeCall s) := by
  have hcalls : (withOlder older s).calls = s.calls := rfl
  unfold takeCall
  rw [hcalls]
  rcases s.calls with _ | ⟨_ | _ | addr, rest⟩
  · rfl
  · rfl
  · rfl
  · exact readStart_withOlder older { s with calls := rest } addr

theorem hostStep_withOlder : hostStep (withOlder older s) = withOlder older (hostStep s) := by
  have hprog : (withOlder older s).prog = s.prog := rfl
  unfold hostStep
  rw [hprog]
  cases s.prog with
  | free => exact takeCall_withOlder older s
  | init st c => exact initStep_withOlder older s st c
  | readWait => rfl

theorem acceptWord_withOlder (w : OpWord) : acceptWord w (withOlder older s) = onNext (withOlder older) (acceptWord w s) := by
  unfold acceptWord
  cases decodeOpw w with
  | ok i => exact exec_withOlder older (takeReq s) i
  | error _ => rfl

/-- No agent reads the sink, and each adds its events in front of the older ones (R29, R39). -/
theorem step_withOlder : step (withOlder older s) = onNext (withOlder older) (step s) := by
  have hreq : (withOlder older s).req = s.req := rfl
  by_cases hr : s.rst = true
  · rw [step_of_reset hr, step_of_reset (s := withOlder older s) hr, resetStep_withOlder]; rfl
  · rw [Bool.not_eq_true] at hr
    by_cases hp : s.phase = .idle
    · cases hq : s.req with
      | some w =>
        rw [step_of_request hr hp hq, step_of_request (s := withOlder older s) hr hp (hreq.trans hq)]
        exact acceptWord_withOlder older s w
      | none =>
        rw [step_of_no_request hr hp hq, step_of_no_request (s := withOlder older s) hr hp (hreq.trans hq),
          hostStep_withOlder]
        rfl
    · rw [step_of_busy hr hp, step_of_busy (s := withOlder older s) hr hp]
      exact phaseStep_relabel id older s

end

/-- Settles O28: the step from `s` and the step from `s` with another record are both the step from `s` with an empty one. -/
theorem diagnosticSinkIsWriteOnly : Obligations.DiagnosticSinkIsWriteOnly := by
  intro s d
  have hempty (older : List DiagEvent) : withOlder older { s with diag := [] } = { s with diag := older } := rfl
  have hs : step s = onNext (withOlder s.diag) (step { s with diag := [] }) := by rw [← step_withOlder, hempty]
  have hd : step { s with diag := d } = onNext (withOlder d) (step { s with diag := [] }) := by
    rw [← step_withOlder, hempty]
  refine ⟨fun t ht => ?_, fun f hf => ?_⟩
  · obtain ⟨u, hu, rfl⟩ := onNext_eq_next (hs.symm.trans ht)
    exact ⟨u.diag, rfl, by rw [hd, hu]; rfl⟩
  · rw [hd, onNext_eq_fault (hs.symm.trans hf)]; rfl

/-! ### Acceptance, reset values, the host's view -/

/-- Settles O5: the step samples the port, and the decoder's answer is what `exec` runs. -/
theorem stepAcceptsDecodedRequest : Obligations.StepAcceptsDecodedRequest := by
  intro s w i hr hp hq hd
  rw [step_of_request hr hp hq, acceptWord, hd]
  rfl

/-- Settles O8: by evaluating the reset state. -/
theorem resetGivesListedValues : Obligations.ResetGivesListedValues := ⟨rfl, rfl, rfl, rfl, rfl, rfl, rfl, rfl⟩

theorem hostView_busy {s : State} (hp : s.phase ≠ .idle) : hostView s = none := if_neg hp

theorem hostView_idle {s : State} (hp : s.phase = .idle) :
    hostView s = some
      { kind := s.kind, status := s.status, token := s.token, rlen := s.rlen
        resp := s.resp.toList.take s.rlen.toNat, cs := s.cs } := if_pos hp

theorem hostMemRead_none {i : Nat} {s : State} (h : ¬ (s.phase = .idle ∧ i < blockLen)) : hostMemRead i s = none := if_neg h

theorem hostMemRead_idle {i : Nat} {s : State} (hp : s.phase = .idle) (hi : i < blockLen) :
    hostMemRead i s = some ((Memory.read i s.buf).getD (Config.bufByte s.bufEpoch i)) := if_pos ⟨hp, hi⟩

/-- Settles O30: by what `hostView` and `hostMemRead` answer in an idle and in a busy block. -/
theorem hostReadsOnlyWhenIdle : Obligations.HostReadsOnlyWhenIdle := by
  intro s
  refine ⟨fun hp => ⟨hostView_busy hp, fun i => hostMemRead_none fun h => hp h.1⟩, fun hp => ⟨fun hlen => ?_, ?_, ?_, ?_⟩⟩
  · refine ⟨_, hostView_idle hp, rfl, rfl, rfl, rfl, rfl, by simpa using hlen, fun i hi => ?_⟩
    simp [hi]
  · intro i hi b hb
    rw [hostMemRead_idle hp hi, hb]; rfl
  · intro i hi hb
    rw [hostMemRead_idle hp hi, hb]; rfl
  · exact fun i hi => hostMemRead_none fun h => Nat.not_lt.2 hi h.2

end Sys2Proof.Machine

/-! PROOFS. The invariant of the block (spec/10_state.md R24 to R32, spec/43_block_reader.md R139): it holds at reset, and every step
from a state that has it answers a next state that has it. -/

namespace Sys2Proof.Machine

/-- Settles O31: the reset state is idle, its counters 0 and its buffer empty. -/
theorem blockInvariantAtReset : Obligations.BlockInvariantAtReset :=
  ⟨by decide, rfl, by decide, trivial, by decide, Memory.wf_nil, rfl⟩

/-! ### The parts of the invariant that need no phase -/

theorem pollInRange_zero (l : Limit) : pollInRange l 0 := by
  cases l with
  | inf => trivial
  | upTo n => exact Nat.zero_le n

/-- "`poll` never exceeds `POLL_LIMIT`" (R26): a poll counts only where the check did not fire. -/
theorem pollInRange_succ {l : Limit} {k : Nat} (h : pollInRange l k) (hl : limitReached l k = false) :
    pollInRange l (k + 1) := by
  cases l with
  | inf => trivial
  | upTo n =>
    have hle : k ≤ n := h
    have hne : k ≠ n := by simpa [limitReached] using hl
    show k + 1 ≤ n
    omega

theorem powerupExchanges_range {c : Config} (h : c.wf = true) : 1 ≤ c.powerupExchanges ∧ c.powerupExchanges ≤ 512 := by
  simp only [Config.wf, Bool.and_eq_true, decide_eq_true_eq] at h
  obtain ⟨⟨-, hlow⟩, hhigh⟩ := h
  exact ⟨hlow, hhigh⟩

/-- A store at index `n` extends the defined bytes below `n` by one (R135). -/
theorem bufDefinedBelow_write {s t : State} {n : Nat} {b : Byte} (hwf : Memory.wf s.buf) (h : bufDefinedBelow n s)
    (ht : t.buf = Memory.write n b s.buf) : bufDefinedBelow (n + 1) t := by
  intro i hi
  rw [ht, Memory.read_write i n b s.buf hwf]
  split
  · rfl
  · exact h i (by omega)

theorem cnt_succ {c : BitVec 10} (h : c.toNat ≤ 511) : (c + 1).toNat = c.toNat + 1 := by bv_omega

/-! ### The rows keep the invariant -/

/-! With the phase known, `phaseFits` is what it says of that phase. -/

theorem Inv.fitsAt {s : State} (hs : Inv s) {p : Phase} (hp : s.phase = p) : phaseFits { s with phase := p } :=
  hp ▸ hs.fits

theorem phaseFits_of_phase {s : State} {p : Phase} (hp : s.phase = p) (h : phaseFits { s with phase := p }) : phaseFits s := by
  subst hp; exact h

section
variable {s t : State}

theorem RowMove.lineIsCs (h : RowMove s t) (hs : s.line = s.cs) : t.line = t.cs := by
  cases h
  case cfSel | brDesel | rlDesel | puDesel => rfl
  all_goals exact hs

theorem RowMove.pollInRange (h : RowMove s t) (hs : pollInRange s.cfg.pollLimit s.poll) :
    pollInRange t.cfg.pollLimit t.poll := by
  cases h
  case cfTxRdblk | brStatusZero => exact pollInRange_zero _
  case rrSkipFiller hl | rrSkipOnly hl | rrSkipFirst hl _ | brStatusFiller hl | brStatusError hl _ _ | brTokenNotReady hl
      | brTokenStart hl _ | brTokenError hl _ _ => exact pollInRange_succ hs hl
  all_goals exact hs

theorem RowMove.bufWf (h : RowMove s t) (hs : Memory.wf s.buf) (hc : s.cnt.toNat ≤ 511) : Memory.wf t.buf := by
  cases h
  case brDataLast | brDataNext => exact Memory.wf_write hs (Nat.lt_succ_of_le hc)
  case brTrailFailed => exact Memory.wf_nil
  all_goals exact hs

theorem RowMove.rlenRange (h : RowMove s t) (hs : s.rlen.toNat ≤ 5) : t.rlen.toNat ≤ 5 := by
  cases h
  case rrSkipOnly | rrSkipFirst => show (1 : BitVec 3).toNat ≤ 5; decide
  case rrRestLast hc | rrRestNext hc _ =>
    show (BitVec.ofNat 3 (s.cnt.toNat + 1)).toNat ≤ 5
    rw [BitVec.toNat_ofNat]
    omega
  all_goals exact hs

theorem RowMove.cntRange (h : RowMove s t) (hs : Inv s) : t.cnt.toNat ≤ 511 := by
  have hc := hs.cntRange
  have hsucc : (s.cnt + 1).toNat = s.cnt.toNat + 1 := cnt_succ hc
  cases h
  case cfSel | brTokenStart | brDataLast | puDesel => exact Nat.zero_le _
  case rrSkipFirst | brCrcFirst => show (1 : BitVec 10).toNat ≤ 511; decide
  case cfTxByte hlt | rrRestNext hlt _ => show (s.cnt + 1).toNat ≤ 511; omega
  case brDataNext hne =>
    show (s.cnt + 1).toNat ≤ 511
    bv_omega
  case puClkNext hp hne =>
    obtain ⟨-, hhigh⟩ := powerupExchanges_range hs.cfgWf
    obtain ⟨-, -, hlt⟩ := hs.fitsAt hp
    have hlt : s.cnt.toNat < s.cfg.powerupExchanges := hlt
    show (s.cnt + 1).toNat ≤ 511
    omega
  all_goals exact hc

/-- Each transition leads from what its phase says to what the next phase says (R28, R139). -/
theorem RowMove.fits (h : RowMove s t) (hs : Inv s) : phaseFits t := by
  have hsucc : (s.cnt + 1).toNat = s.cnt.toNat + 1 := cnt_succ hs.cntRange
  cases h
  case cfTxSend | rrSkipTimeout | rrSkipOnly | rrRestLast | brTrailOk | brTrailFailed | rlTrail | puClkLast => exact rfl
  case cfSel hp =>
    obtain ⟨hcur, -⟩ := hs.fitsAt hp
    exact ⟨hcur, rfl, Nat.zero_le 5⟩
  case cfTxByte hp tx hlt =>
    obtain ⟨hcur, hcs, -⟩ := hs.fitsAt hp
    refine phaseFits_of_phase hp ⟨hcur, hcs, ?_⟩
    show (s.cnt + 1).toNat ≤ 5
    omega
  case cfTxRdblk hp tx hcur =>
    obtain ⟨hsend | hfresh, hcs, -⟩ := hs.fitsAt hp
    · exact absurd (hcur.symm.trans hsend) (by decide)
    · exact ⟨hfresh, hcs⟩
  case rrSkipFiller hp _ => exact phaseFits_of_phase hp (hs.fitsAt hp)
  case rrSkipFirst hp _ hlen =>
    obtain ⟨⟨hcur, hcs, hlens⟩, -⟩ := hs.fitsAt hp
    have hlens : s.len = 1 ∨ s.len = 2 ∨ s.len = 5 := hlens
    refine ⟨⟨hcur, hcs, hlens⟩, Nat.le_refl 1, ?_, rfl⟩
    show 1 < s.len.toNat
    bv_omega
  case rrRestNext hp hlt hne =>
    obtain ⟨hrun, -, hlen, -⟩ := hs.fitsAt hp
    have hlen : s.cnt.toNat < s.len.toNat := hlen
    refine phaseFits_of_phase hp ⟨hrun, ?_, ?_, ?_⟩
    · show 1 ≤ (s.cnt + 1).toNat; omega
    · show (s.cnt + 1).toNat < s.len.toNat; omega
    · show (BitVec.ofNat 3 (s.cnt.toNat + 1)).toNat = (s.cnt + 1).toNat
      rw [BitVec.toNat_ofNat]; omega
  case brStatusTimeout hp =>
    obtain ⟨⟨hcur, -, hstatus, htoken⟩, hcs⟩ := hs.fitsAt hp
    exact ⟨hcur, hcs, .inl hstatus, htoken⟩
  case brStatusFiller hp _ => exact phaseFits_of_phase hp (hs.fitsAt hp)
  case brStatusError hp _ hfiller herror =>
    obtain ⟨⟨hcur, -, -, htoken⟩, hcs⟩ := hs.fitsAt hp
    exact ⟨hcur, hcs, by simpa [isErrorStatus] using herror, hfiller, htoken⟩
  case brStatusZero hp herror =>
    obtain ⟨⟨hcur, -, -, htoken⟩, hcs⟩ := hs.fitsAt hp
    exact ⟨hcur, hcs, by simpa [isErrorStatus] using herror, htoken⟩
  case brTokenTimeout hp =>
    obtain ⟨hcur, hcs, hstatus, htoken⟩ := hs.fitsAt hp
    exact ⟨hcur, hcs, .inr hstatus, htoken⟩
  case brTokenNotReady hp _ => exact phaseFits_of_phase hp (hs.fitsAt hp)
  case brTokenStart hp _ hstart =>
    obtain ⟨hcur, hcs, hstatus, -⟩ := hs.fitsAt hp
    exact ⟨hcur, hcs, hstatus, by simpa [isStartToken] using hstart, nofun⟩
  case brTokenError hp _ htoken hstart =>
    obtain ⟨hcur, hcs, hstatus, -⟩ := hs.fitsAt hp
    exact ⟨hcur, hcs, hstatus, by simpa [isStartToken] using hstart, by simpa [isToken] using htoken⟩
  case brDataLast hp hc =>
    obtain ⟨hcur, hcs, hstatus, htoken, hbuf⟩ := hs.fitsAt hp
    have hblock : s.cnt.toNat + 1 = blockLen := by rw [hc]; rfl
    exact ⟨hcur, hcs, hstatus, htoken, Nat.zero_le 1, hblock ▸ bufDefinedBelow_write hs.bufWf hbuf rfl⟩
  case brDataNext hp _ _ =>
    obtain ⟨hcur, hcs, hstatus, htoken, hbuf⟩ := hs.fitsAt hp
    refine phaseFits_of_phase hp ⟨hcur, hcs, hstatus, htoken, ?_⟩
    show bufDefinedBelow (s.cnt + 1).toNat _
    exact hsucc ▸ bufDefinedBelow_write hs.bufWf hbuf rfl
  case brCrcFirst hp =>
    obtain ⟨hcur, hcs, hstatus, htoken, -, hbuf⟩ := hs.fitsAt hp
    exact phaseFits_of_phase hp ⟨hcur, hcs, hstatus, htoken, Nat.le_refl 1, hbuf⟩
  case brCrcLast hp =>
    obtain ⟨hcur, hcs, hstatus, htoken, -, hbuf⟩ := hs.fitsAt hp
    exact ⟨hcur, hcs, hstatus, htoken, hbuf⟩
  case brDesel hp =>
    obtain ⟨hcur, -, hout⟩ := hs.fitsAt hp
    exact ⟨hcur, rfl, hout⟩
  case rlDesel hp => exact ⟨hs.fitsAt hp, rfl⟩
  case puDesel hp =>
    obtain ⟨hlow, -⟩ := powerupExchanges_range hs.cfgWf
    exact ⟨hs.fitsAt hp, rfl, hlow⟩
  case puClkNext hp hne =>
    obtain ⟨hcur, hcs, hlt⟩ := hs.fitsAt hp
    have hlt : s.cnt.toNat < s.cfg.powerupExchanges := hlt
    refine phaseFits_of_phase hp ⟨hcur, hcs, ?_⟩
    show (s.cnt + 1).toNat < s.cfg.powerupExchanges
    omega

theorem RowMove.inv (h : RowMove s t) (hs : Inv s) : Inv t where
  cfgWf := by
    obtain ⟨hcfg, -⟩ := h.latches
    exact hcfg ▸ hs.cfgWf
  lineIsCs := h.lineIsCs hs.lineIsCs
  cntRange := h.cntRange hs
  pollRange := h.pollInRange hs.pollRange
  rlenRange := h.rlenRange hs.rlenRange
  bufWf := h.bufWf hs.bufWf hs.cntRange
  fits := h.fits hs

/-! ### The reset and an idle block keep the invariant -/

theorem lenOf_legal (l : RespLen) : lenOf l = 1 ∨ lenOf l = 2 ∨ lenOf l = 5 := by cases l <;> decide

theorem SameBlock.inv (h : SameBlock s t) (hs : Inv s) : Inv t := by
  obtain ⟨hcfg, hline, hcnt, hpoll, hrlen, hbuf, hfits⟩ := hs
  rw [h]
  exact ⟨hcfg, hline, hcnt, hpoll, hrlen, hbuf, hfits⟩

theorem IdleMove.inv (h : IdleMove s t) (hp : s.phase = .idle) (hs : Inv s) : Inv t := by
  have hcur : s.cur = .none := hs.fitsAt hp
  have hhost : Inv (hostStep s) := (hostStep_sameBlock s).inv hs
  obtain ⟨hcfg, hline, hcnt, hpoll, hrlen, hbuf, -⟩ := hs
  cases h with
  | host => exact hhost
  | refused => exact ⟨hcfg, hline, hcnt, hpoll, hrlen, hbuf, phaseFits_of_phase hp hcur⟩
  | send w hw idx arg hd hcs => exact ⟨hcfg, hline, hcnt, hpoll, hrlen, hbuf, .inl rfl, hcs⟩
  | resp w hw l hd hcs =>
    exact ⟨hcfg, hline, hcnt, pollInRange_zero _, Nat.zero_le 5, hbuf, ⟨rfl, hcs, lenOf_legal l⟩, rfl⟩
  | rdblk w hw addr hd hcs => exact ⟨hcfg, hline, hcnt, hpoll, hrlen, hbuf, .inr ⟨rfl, rfl, rfl, rfl⟩, hcs⟩
  | release => exact ⟨hcfg, hline, hcnt, hpoll, hrlen, hbuf, rfl⟩
  | pwrup => exact ⟨hcfg, hline, hcnt, hpoll, hrlen, hbuf, rfl⟩

end

theorem resetStep_bufWf {s : State} (hs : Memory.wf s.buf) : Memory.wf (resetStep s).buf := by
  unfold resetStep blockReset
  dsimp only
  split
  · exact Memory.wf_nil
  · exact hs

theorem resetStep_inv {s : State} (hs : Inv s) : Inv (resetStep s) where
  cfgWf := resetStep_cfg s ▸ hs.cfgWf
  lineIsCs := rfl
  cntRange := Nat.zero_le _
  pollRange := pollInRange_zero _
  rlenRange := Nat.zero_le _
  bufWf := resetStep_bufWf hs.bufWf
  fits := rfl

/-! ### No fault -/

theorem frameByte_of_le (mode : CksumMode) (idx : CmdIdx) (arg : Word) {n : Nat} (hn : n ≤ 5) :
    ∃ tx, frameByte mode idx arg n = some tx :=
  ⟨_, List.getElem?_eq_getElem (by simp only [frameHead, List.length_append, List.length_cons, List.length_nil]; omega)⟩

theorem cfTx_next {s : State} (hc : s.cnt.toNat ≤ 5) (hcur : s.cur = .send ∨ s.cur = .rdblk) : ∃ t, cfTx s = .next t := by
  obtain ⟨tx, htx⟩ := frameByte_of_le s.cfg.cksumMode s.idx s.arg hc
  simp only [cfTx, htx]
  split
  · exact ⟨_, rfl⟩
  · rcases hcur with hsend | hread
    · exact ⟨_, if_pos hsend⟩
    · exact ⟨_, (if_neg (by simp [hread])).trans (if_pos hread)⟩

theorem rrSkip_next (s : State) : ∃ t, rrSkip s = .next t := by
  unfold rrSkip; dsimp only; split_ifs <;> exact ⟨_, rfl⟩

theorem rrRest_next {s : State} (hc : s.cnt.toNat < 5) : ∃ t, rrRest s = .next t := by
  unfold rrRest; rw [dif_pos hc]; dsimp only; split_ifs <;> exact ⟨_, rfl⟩

theorem brStatus_next (s : State) : ∃ t, brStatus s = .next t := by
  unfold brStatus; dsimp only; split_ifs <;> exact ⟨_, rfl⟩

theorem brToken_next (s : State) : ∃ t, brToken s = .next t := by
  unfold brToken; dsimp only; split_ifs <;> exact ⟨_, rfl⟩

theorem brData_next {s : State} (hc : s.cnt.toNat < blockLen) : ∃ t, brData s = .next t := by
  unfold brData; rw [if_pos hc]; dsimp only; split_ifs <;> exact ⟨_, rfl⟩

theorem brCrc_next {s : State} (hc : s.cnt.toNat ≤ 1) : ∃ t, brCrc s = .next t := by
  by_cases h0 : s.cnt = 0
  · exact ⟨_, if_pos h0⟩
  · exact ⟨_, (if_neg h0).trans (if_pos (by bv_omega))⟩

theorem brTrail_next (s : State) : ∃ t, brTrail s = .next t := by
  unfold brTrail; dsimp only; split_ifs <;> exact ⟨_, rfl⟩

theorem puClk_next (s : State) : ∃ t, puClk s = .next t := by
  unfold puClk; dsimp only; split_ifs <;> exact ⟨_, rfl⟩

/-- With the invariant every phase has a row for the state (log 13). -/
theorem phaseStep_next {s : State} (hs : Inv s) : ∃ t, phaseStep s = .next t := by
  cases hp : s.phase with
  | idle => exact ⟨s, by simp only [phaseStep, hp]⟩
  | cfSel => exact ⟨_, phaseStep_cfSel hp⟩
  | cfTx =>
    obtain ⟨hcur, -, hc⟩ := hs.fitsAt hp
    exact phaseStep_cfTx hp ▸ cfTx_next hc (hcur.imp_right fun ⟨hread, _⟩ => hread)
  | rrSkip => exact phaseStep_rrSkip hp ▸ rrSkip_next s
  | rrRest =>
    obtain ⟨⟨-, -, hlens⟩, -, hlt, -⟩ := hs.fitsAt hp
    have hlens : s.len = 1 ∨ s.len = 2 ∨ s.len = 5 := hlens
    have hlt : s.cnt.toNat < s.len.toNat := hlt
    exact phaseStep_rrRest hp ▸ rrRest_next (by bv_omega)
  | brStatus => exact phaseStep_brStatus hp ▸ brStatus_next s
  | brToken => exact phaseStep_brToken hp ▸ brToken_next s
  | brData => exact phaseStep_brData hp ▸ brData_next (Nat.lt_succ_of_le hs.cntRange)
  | brCrc =>
    obtain ⟨-, -, -, -, hc, -⟩ := hs.fitsAt hp
    exact phaseStep_brCrc hp ▸ brCrc_next hc
  | brDesel => exact ⟨_, phaseStep_brDesel hp⟩
  | brTrail => exact phaseStep_brTrail hp ▸ brTrail_next s
  | rlDesel => exact ⟨_, phaseStep_rlDesel hp⟩
  | rlTrail => exact ⟨_, phaseStep_rlTrail hp⟩
  | puDesel => exact ⟨_, phaseStep_puDesel hp⟩
  | puClk => exact phaseStep_puClk hp ▸ puClk_next s

theorem acceptWord_next (w : OpWord) (s : State) : ∃ t, acceptWord w s = .next t := by
  unfold acceptWord
  split
  · exact exec_next _ _
  · exact ⟨_, rfl⟩

theorem step_next {s : State} (hs : Inv s) : ∃ t, step s = .next t := by
  cases hr : s.rst with
  | true => exact ⟨_, step_of_reset hr⟩
  | false =>
    by_cases hp : s.phase = .idle
    · cases hq : s.req with
      | none => exact ⟨_, step_of_no_request hr hp hq⟩
      | some w => exact step_of_request hr hp hq ▸ acceptWord_next w s
    · exact step_of_busy hr hp ▸ phaseStep_next hs

theorem step_inv {s t : State} (h : step s = .next t) (hs : Inv s) : Inv t := by
  rcases step_moves h with ⟨-, rfl⟩ | ⟨-, -, hrow⟩ | ⟨-, hp, hidle⟩
  · exact resetStep_inv hs
  · exact hrow.inv hs
  · exact hidle.inv hp hs

/-- Settles O32: with the invariant a step has a next state, and each transition keeps every part of it. -/
theorem blockInvariantKept : Obligations.BlockInvariantKept := by
  intro s hs
  obtain ⟨t, ht⟩ := step_next hs
  exact ⟨t, ht, step_inv ht hs⟩

end Sys2Proof.Machine

/-! PROOFS. The rules of the memory (spec/20_memory.md R50 to R58): what a step does to the card's stream and to the Block Buffer. -/

namespace Sys2Proof.Machine

/-! ### What a reset leaves of the stream and of the buffer -/

@[simp] theorem resetStep_card (s : State) : (resetStep s).card = s.card := by
  unfold resetStep blockReset; dsimp only; split <;> rfl

@[simp] theorem resetStep_xchgs (s : State) : (resetStep s).xchgs = s.xchgs := by
  unfold resetStep blockReset; dsimp only; split <;> rfl

/-- A reset that cuts off a read leaves nothing defined (R229, log 5). -/
theorem resetStep_buffer_of_rdblk {s : State} (h : s.cur = .rdblk) :
    (resetStep s).buf = [] ∧ (resetStep s).bufEpoch = s.bufEpoch + 1 := by
  unfold resetStep blockReset; rw [if_pos h]; exact ⟨rfl, rfl⟩

/-- The Block Buffer "is not reset by the block" (R41). -/
theorem resetStep_buffer_of_not_rdblk {s : State} (h : s.cur ≠ .rdblk) :
    (resetStep s).buf = s.buf ∧ (resetStep s).bufEpoch = s.bufEpoch := by
  unfold resetStep blockReset; rw [if_neg h]; exact ⟨rfl, rfl⟩

/-! ### The card's stream -/

/-- The card's stream and the calls of a transition (R58): kept with no exchange, or one byte further with one. -/
def CardFollowsCalls (s t : State) : Prop :=
  ∃ new, t.trace = new ++ s.trace ∧
    ((t.xchgs = s.xchgs ∧ t.card = s.card ∧ ∀ tx rx, Call.xchg tx rx ∉ new) ∨
      (t.xchgs = s.xchgs + 1 ∧ t.card = s.card.tail ∧ ∃ tx, Call.xchg tx (s.rx 0) ∈ new))

section
variable {s t : State}

theorem CardFollowsCalls.noCall (hx : t.xchgs = s.xchgs) (hc : t.card = s.card) (ht : t.trace = s.trace) :
    CardFollowsCalls s t := ⟨[], ht, .inl ⟨hx, hc, by simp⟩⟩

theorem CardFollowsCalls.exchange (tx : Byte) (hx : t.xchgs = s.xchgs + 1) (hc : t.card = s.card.tail)
    (ht : t.trace = .xchg tx (s.rx 0) :: s.trace) : CardFollowsCalls s t :=
  ⟨[.xchg tx (s.rx 0)], ht, .inr ⟨hx, hc, tx, by simp⟩⟩

theorem CardFollowsCalls.store (i : Nat) (b tx : Byte) (hx : t.xchgs = s.xchgs + 1) (hc : t.card = s.card.tail)
    (ht : t.trace = .memWrite i b :: .xchg tx (s.rx 0) :: s.trace) : CardFollowsCalls s t :=
  ⟨[.memWrite i b, .xchg tx (s.rx 0)], ht, .inr ⟨hx, hc, tx, by simp⟩⟩

theorem RowMove.cardFollowsCalls (h : RowMove s t) : CardFollowsCalls s t := by
  cases h
  case cfSel => exact ⟨[.select], rfl, .inl ⟨rfl, rfl, by simp⟩⟩
  case brDesel | rlDesel | puDesel => exact ⟨[.deselect], rfl, .inl ⟨rfl, rfl, by simp⟩⟩
  case rrSkipTimeout | brStatusTimeout | brTokenTimeout => exact .noCall rfl rfl rfl
  case brDataLast | brDataNext => exact .store _ _ _ rfl rfl rfl
  all_goals exact .exchange _ rfl rfl rfl

theorem IdleMove.cardFollowsCalls (h : IdleMove s t) : CardFollowsCalls s t := by
  cases h
  case host => rw [hostStep_sameBlock s]; exact .noCall rfl rfl rfl
  all_goals exact .noCall rfl rfl rfl

end

/-- Settles O23: a row makes at most one exchange, and the reset and an idle block make none. -/
theorem cardAdvancesWithExchanges : Obligations.CardAdvancesWithExchanges := by
  intro s t h
  change CardFollowsCalls s t
  rcases step_moves h with ⟨-, rfl⟩ | ⟨-, -, hrow⟩ | ⟨-, -, hidle⟩
  · exact .noCall (resetStep_xchgs s) (resetStep_card s) (resetStep_trace s)
  · exact hrow.cardFollowsCalls
  · exact hidle.cardFollowsCalls

/-! ### The Block Buffer -/

/-- With nothing listed the idle host reads free values only (R52, log 4). -/
theorem hostMemRead_undefined {i : Nat} {s : State} (hp : s.phase = .idle) (hb : s.buf = []) (hi : i < blockLen) :
    hostMemRead i s = some (Config.bufByte s.bufEpoch i) := by
  rw [hostMemRead_idle hp hi, hb]; rfl

section
variable {s t : State}

/-- Of the rows, `BR_DATA` stores a byte and the end of a failed read undefines the buffer (R51, R52). -/
theorem RowMove.buffer (h : RowMove s t) :
    (t.buf = s.buf ∧ t.bufEpoch = s.bufEpoch) ∨
      (s.phase = .brData ∧ t.buf = Memory.write s.cnt.toNat (s.rx 0) s.buf ∧ t.bufEpoch = s.bufEpoch) ∨
      (s.phase = .brTrail ∧ s.kind ≠ .ok ∧ t.phase = .idle ∧ t.buf = [] ∧ t.bufEpoch = s.bufEpoch + 1) := by
  cases h
  case brDataLast hp _ | brDataNext hp _ _ => exact .inr (.inl ⟨hp, rfl, rfl⟩)
  case brTrailFailed hp hk => exact .inr (.inr ⟨hp, hk, rfl, rfl, rfl⟩)
  all_goals exact .inl ⟨rfl, rfl⟩

theorem IdleMove.buffer (h : IdleMove s t) : t.buf = s.buf ∧ t.bufEpoch = s.bufEpoch := by
  cases h
  case host => rw [hostStep_sameBlock s]; exact ⟨rfl, rfl⟩
  all_goals exact ⟨rfl, rfl⟩

end

/-- Settles O27: the reset by whether it cuts off a read, the rows by `RowMove.buffer`; an idle block leaves the buffer. -/
theorem bufferWrittenByPayloadOnly : Obligations.BufferWrittenByPayloadOnly := by
  intro s t hwf h
  rcases step_moves h with ⟨hr, rfl⟩ | ⟨hr, -, hrow⟩ | ⟨-, -, hidle⟩
  · by_cases hcur : s.cur = .rdblk
    · obtain ⟨hbuf, hepoch⟩ := resetStep_buffer_of_rdblk hcur
      exact .inr (.inr ⟨.inr ⟨hr, hcur⟩, fun i hi => hepoch ▸ hostMemRead_undefined rfl hbuf hi⟩)
    · exact .inl (resetStep_buffer_of_not_rdblk hcur)
  · rcases hrow.buffer with hkept | ⟨hp, hbuf, hepoch⟩ | ⟨hp, hk, hidle, hbuf, hepoch⟩
    · exact .inl hkept
    · exact .inr (.inl ⟨hr, hp, hepoch, fun i => hbuf ▸ Memory.read_write i s.cnt.toNat (s.rx 0) s.buf hwf⟩)
    · exact .inr (.inr ⟨.inl ⟨hr, hp, hk⟩, fun i hi => hepoch ▸ hostMemRead_undefined hidle hbuf hi⟩)
  · exact .inl hidle.buffer

end Sys2Proof.Machine

/-! PROOFS. The decoder and the encoder of operation words, the illegal words, and the opcode table (spec/30_encoding.md R82 to
R86). The decoder is described once for each opcode of R83; the statements go through these equations. -/

namespace Sys2Proof

/-! ### The operand byte of SEND (R83, R84) -/

theorem idx_setWidth_high (idx : CmdIdx) : (idx.setWidth 8).extractLsb' 6 2 = 0 := by revert idx; decide

theorem idx_setWidth_low (idx : CmdIdx) : (idx.setWidth 8).extractLsb' 0 6 = idx := by revert idx; decide

theorem setWidth_low_of_high_eq_zero {a : Byte} (h : a.extractLsb' 6 2 = 0) : (a.extractLsb' 0 6).setWidth 8 = a := by
  revert a; decide

theorem high_eq_zero_of_mask {a : Byte} (h : a &&& 0xC0 = 0) : a.extractLsb' 6 2 = 0 := by revert a; decide

/-! ### The decoder, opcode by opcode -/

/-- The opcodes of R83, and those R86 calls illegal. -/
theorem opcode_cases (opc : BitVec 8) :
    opc = 0x01 ∨ opc = 0x02 ∨ opc = 0x03 ∨ opc = 0x04 ∨ opc = 0x05 ∨ (opc = 0x00 ∨ 0x06 ≤ opc) := by bv_omega

section
variable (a : BitVec 8) (x : Word)

theorem decodeFields_opc_send : decodeFields ⟨0x01, a, x⟩ =
    if a.extractLsb' 6 2 = 0 then .ok (.send (a.extractLsb' 0 6) x) else .error .sendIndexRange := rfl

theorem decodeFields_opc_resp : decodeFields ⟨0x02, a, x⟩ =
    if x ≠ 0 then .error .respOperand else if a = 0x01 then .ok .resp1 else if a = 0x02 then .ok .resp2
    else if a = 0x05 then .ok .resp5 else .error .respLength := rfl

theorem decodeFields_opc_rdblk : decodeFields ⟨0x03, a, x⟩ =
    if a = 0 then .ok (.rdblk x) else .error .rdblkOperand := rfl

theorem decodeFields_opc_release : decodeFields ⟨0x04, a, x⟩ =
    if a = 0 ∧ x = 0 then .ok .release else .error .releaseOperand := rfl

theorem decodeFields_opc_pwrup : decodeFields ⟨0x05, a, x⟩ =
    if a = 0 ∧ x = 0 then .ok .pwrup else .error .pwrupOperand := rfl

theorem decodeFields_opc_unknown {opc : BitVec 8} (h : opc = 0x00 ∨ 0x06 ≤ opc) :
    decodeFields ⟨opc, a, x⟩ = .error .unknownOpcode := by
  have hne : opc ≠ 0x01 ∧ opc ≠ 0x02 ∧ opc ≠ 0x03 ∧ opc ≠ 0x04 ∧ opc ≠ 0x05 := by bv_omega
  simp only [decodeFields, hne, if_false]

end

/-! ### Decoding and encoding -/

/-- The fields an operation is written with decode to it. -/
@[simp] theorem decodeFields_fields (i : Instr) : decodeFields i.fields = .ok i := by
  cases i with
  | send idx arg => rw [Instr.fields, decodeFields_opc_send, if_pos (idx_setWidth_high idx), idx_setWidth_low]
  | resp1 | resp2 | resp5 | rdblk | release | pwrup => rfl

/-- What the decoder accepts is written as `Instr.fields` writes it. -/
theorem fields_of_decodeFields {f : OpFields} {i : Instr} (h : decodeFields f = .ok i) : f = i.fields := by
  obtain ⟨opc, a, x⟩ := f
  rcases opcode_cases opc with rfl | rfl | rfl | rfl | rfl | hopc
  · rw [decodeFields_opc_send] at h
    split at h <;> cases h
    rw [Instr.fields, setWidth_low_of_high_eq_zero ‹_›]
  · rw [decodeFields_opc_resp] at h
    split_ifs at h <;> cases h <;> simp_all [Instr.fields]
  · rw [decodeFields_opc_rdblk] at h
    split at h <;> cases h
    simp_all [Instr.fields]
  · rw [decodeFields_opc_release] at h
    split at h <;> cases h
    simp_all [Instr.fields]
  · rw [decodeFields_opc_pwrup] at h
    split at h <;> cases h
    simp_all [Instr.fields]
  · cases (decodeFields_opc_unknown a x hopc).symm.trans h

@[simp] theorem decodeOpw_encode (i : Instr) : decodeOpw (encode i) = .ok i := by
  rw [decodeOpw, encode, OpFields.ofWord_toWord, decodeFields_fields]

theorem encode_of_decodeOpw {w : OpWord} {i : Instr} (h : decodeOpw w = .ok i) : w = encode i := by
  rw [encode, ← fields_of_decodeFields h, OpFields.toWord_ofWord]

/-- Settles O1: the decoder inverts the encoder, and accepts nothing but the encoder's words. -/
theorem decodeInvertsEncode : Obligations.DecodeInvertsEncode :=
  fun _ i => ⟨encode_of_decodeOpw, fun h => h ▸ decodeOpw_encode i⟩

/-! ### The words the decoder refuses -/

/-- The illegal words as R86 lists them, clause by clause. -/
def OpFields.Illegal (f : OpFields) : Prop :=
  f.opc = 0x00 ∨ 0x06 ≤ f.opc ∨ (f.opc = 0x01 ∧ f.a.extractLsb' 6 2 ≠ 0) ∨
    (f.opc = 0x02 ∧ (¬ (f.a = 1 ∨ f.a = 2 ∨ f.a = 5) ∨ f.w ≠ 0)) ∨ (f.opc = 0x03 ∧ f.a ≠ 0) ∨
    ((f.opc = 0x04 ∨ f.opc = 0x05) ∧ (f.a ≠ 0 ∨ f.w ≠ 0))

/-- The decoder refuses exactly the words R86 lists. -/
theorem decodeFields_error_iff (f : OpFields) : (∃ r, decodeFields f = .error r) ↔ f.Illegal := by
  obtain ⟨opc, a, x⟩ := f
  rcases opcode_cases opc with rfl | rfl | rfl | rfl | rfl | hopc
  · rw [decodeFields_opc_send]
    split <;> simp_all [OpFields.Illegal]
  · rw [decodeFields_opc_resp]
    split_ifs <;> simp_all [OpFields.Illegal]
  · rw [decodeFields_opc_rdblk]
    split <;> simp_all [OpFields.Illegal]
  · rw [decodeFields_opc_release]
    split <;> simp_all [OpFields.Illegal, imp_iff_not_or]
  · rw [decodeFields_opc_pwrup]
    split <;> simp_all [OpFields.Illegal, imp_iff_not_or]
  · exact iff_of_true ⟨_, decodeFields_opc_unknown a x hopc⟩ (hopc.imp_right .inl)

/-! ### The opcode table -/

/-- The word of an operation lies in its own row of the table and in no other. -/
theorem encode_matches_row (i : Instr) : Laws.EncodingMatchesRow.Statement i := by
  cases i with
  | send idx arg => exact Laws.EncodingMatchesRow.send idx arg
  | resp1 => exact Laws.EncodingMatchesRow.resp1
  | resp2 => exact Laws.EncodingMatchesRow.resp2
  | resp5 => exact Laws.EncodingMatchesRow.resp5
  | rdblk addr => exact Laws.EncodingMatchesRow.rdblk addr
  | release => exact Laws.EncodingMatchesRow.release
  | pwrup => exact Laws.EncodingMatchesRow.pwrup

theorem exists_row_of_encode (i : Instr) : ∃ r ∈ opcodeTable, r.holds (encode i) = true ∧ r.mnemonic = i.mnemonic := by
  obtain ⟨hrows, -⟩ := encode_matches_row i
  have hmem : i.mnemonic ∈ (opcodeTable.filter fun r => r.holds (encode i)).map OpRow.mnemonic := by simp [hrows]
  obtain ⟨r, hr, hm⟩ := List.mem_map.1 hmem
  obtain ⟨htable, hholds⟩ := List.mem_filter.1 hr
  exact ⟨r, htable, hholds, hm⟩

theorem and_byteMask (b : BitVec 8) : b &&& 255#8 = b := BitVec.and_allOnes

theorem and_wordMask (x : Word) : x &&& 4294967295#32 = x := BitVec.and_allOnes

/-- The fields of a word in a row of the table are those of an operation of the row. -/
theorem exists_fields_of_row {r : OpRow} (hr : r ∈ opcodeTable) {f : OpFields} (h : r.holds f.toWord = true) :
    ∃ i : Instr, f = i.fields ∧ i.mnemonic = r.mnemonic := by
  obtain ⟨opc, a, x⟩ := f
  rw [OpRow.holds_toWord] at h
  simp only [opcodeTable, List.mem_cons, List.not_mem_nil, or_false] at hr
  rcases hr with rfl | rfl | rfl | rfl | rfl | rfl | rfl <;>
    simp only [OpFields.ofWord, BitVec.reduceExtractLsb', and_byteMask, and_wordMask, BitVec.and_zero, Bool.and_eq_true,
      beq_iff_eq, and_true] at h
  · obtain ⟨rfl, ha⟩ := h
    exact ⟨.send (a.extractLsb' 0 6) x, by simp [Instr.fields, setWidth_low_of_high_eq_zero (high_eq_zero_of_mask ha)], rfl⟩
  · obtain ⟨rfl, rfl, rfl⟩ := h; exact ⟨.resp1, rfl, rfl⟩
  · obtain ⟨rfl, rfl, rfl⟩ := h; exact ⟨.resp2, rfl, rfl⟩
  · obtain ⟨rfl, rfl, rfl⟩ := h; exact ⟨.resp5, rfl, rfl⟩
  · obtain ⟨rfl, rfl⟩ := h; exact ⟨.rdblk x, rfl, rfl⟩
  · obtain ⟨rfl, rfl, rfl⟩ := h; exact ⟨.release, rfl, rfl⟩
  · obtain ⟨rfl, rfl, rfl⟩ := h; exact ⟨.pwrup, rfl, rfl⟩

/-- Settles O3: an accepted word is an encoding, which lies in its row; a word in a row has an operation's fields. -/
theorem decoderFollowsOpcodeTable : Obligations.DecoderFollowsOpcodeTable := by
  intro w m
  constructor
  · rintro ⟨i, hd, rfl⟩
    rw [encode_of_decodeOpw hd]
    exact exists_row_of_encode i
  · rintro ⟨r, hr, hholds, rfl⟩
    rw [← OpFields.toWord_ofWord w] at hholds
    obtain ⟨i, hi, hm⟩ := exists_fields_of_row hr hholds
    exact ⟨i, by rw [decodeOpw, hi, decodeFields_fields], hm⟩

/-- Settles O4: each word is the encoder's word of its operation. -/
theorem specWordsDecode : Obligations.SpecWordsDecode :=
  ⟨decodeOpw_encode (.send 8 0x1AA), decodeOpw_encode (.send 17 0x12345678), decodeOpw_encode (.send 63 0xFFFFFFFF),
    decodeOpw_encode .resp1, decodeOpw_encode .resp2, decodeOpw_encode .resp5, decodeOpw_encode (.rdblk 0x200),
    decodeOpw_encode .release, decodeOpw_encode .pwrup⟩

end Sys2Proof

/-! PROOFS. The acceptance of an illegal word (R30, R86) and the layout of a command frame (R70 to R73). -/

namespace Sys2Proof.Machine

theorem acceptWord_of_error {w : OpWord} {r : Reject} (h : decodeOpw w = .error r) (s : State) :
    acceptWord w s = .next (raise .illegalOp (takeReq s)) := by rw [acceptWord, h]

/-- Settles O2: the words of R86 are those the decoder refuses, and acceptance raises `IllegalOp` for a refused word only. -/
theorem illegalWordRaisesIllegalOp : Obligations.IllegalWordRaisesIllegalOp := by
  intro w s hr hp hq
  have hiff := decodeFields_error_iff (OpFields.ofWord w)
  refine ⟨fun hill => ?_, fun hlegal => ?_⟩
  · obtain ⟨r, hd⟩ := hiff.2 hill
    rw [step_of_request hr hp hq, acceptWord_of_error hd]
    rfl
  · cases hd : decodeOpw w with
    | ok i => exact ⟨i, rfl⟩
    | error r => exact absurd (hiff.1 ⟨r, hd⟩) hlegal

/-! ### The command frame -/

/-- Byte 0 (R72): bit 7 clear, bit 6 set, the index below. -/
theorem frame_byte0_layout (idx : CmdIdx) :
    (0x40 ||| idx.setWidth 8 : Byte).getLsbD 7 = false ∧ (0x40 ||| idx.setWidth 8 : Byte).getLsbD 6 = true ∧
      (0x40 ||| idx.setWidth 8 : Byte).extractLsb' 0 6 = idx := by
  revert idx; decide

/-- Bytes 1 to 4 (R72): the argument, most significant byte first. -/
theorem arg_bytes_append (arg : Word) :
    arg.extractLsb' 24 8 ++ arg.extractLsb' 16 8 ++ arg.extractLsb' 8 8 ++ arg.extractLsb' 0 8 = arg := by
  rw [BitVec.extractLsb'_append_extractLsb'_eq_extractLsb' (by rfl),
    BitVec.extractLsb'_append_extractLsb'_eq_extractLsb' (by rfl),
    BitVec.extractLsb'_append_extractLsb'_eq_extractLsb' (by rfl)]
  simp

/-- Byte 5 (R73): the checksum above a set bit 0. -/
theorem frame_byte5_layout (ck : Ck) :
    ((ck.setWidth 8 <<< 1) ||| 1 : Byte).extractLsb' 1 7 = ck ∧ ((ck.setWidth 8 <<< 1) ||| 1 : Byte).getLsbD 0 = true := by
  revert ck; decide

/-- Settles O51: the frame is written out, and each of its bytes has the layout of R72. -/
theorem frameLayout : Obligations.FrameLayout := by
  intro mode idx arg
  obtain ⟨hbit7, hbit6, hidx⟩ := frame_byte0_layout idx
  obtain ⟨hck, hbit0⟩ := frame_byte5_layout (ck7 mode idx arg)
  exact ⟨_, _, _, _, _, _, rfl, fun _ => rfl, rfl, hbit7, hbit6, hidx, arg_bytes_append arg, hck, hbit0⟩

end Sys2Proof.Machine

/-! PROOFS. The Checksum Generator (spec/40_checksum_generator.md R101 to R106): its values, its linearity, and the polynomial
remainder it computes. -/

namespace Sys2Proof.Machine

/-! ### Values -/

theorem ck7_zero_zero (mode : CksumMode) : ck7 mode 0 0 = 0x4A := by
  cases mode with
  | crc7 => decide +kernel
  | table _ => rfl

theorem ck7_eight_checkPattern (mode : CksumMode) : ck7 mode 8 0x1AA = 0x43 := by
  cases mode with
  | crc7 => decide +kernel
  | table _ => rfl

/-- Settles O46: the sixth frame byte is the checksum above the end bit, whatever the mode. -/
theorem checksumOfKnownCommands : Obligations.ChecksumOfKnownCommands := fun mode =>
  ⟨ck7_zero_zero mode, ck7_eight_checkPattern mode, by rw [frameByte_five, ck7_zero_zero]; rfl,
    by rw [frameByte_five, ck7_eight_checkPattern]; rfl⟩

/-- Settles O47: the pairs outside the table take neither of its branches. -/
theorem tableModePlaceholder : Obligations.TableModePlaceholder := fun p _ _ =>
  ⟨ck7_zero_zero (.table p), ck7_eight_checkPattern (.table p), fun h0 h8 => (if_neg h0).trans (if_neg h8)⟩

/-- Settles O48, by running the register over the five messages. -/
theorem checksumWorkedValues : Obligations.ChecksumWorkedValues := by
  unfold Obligations.ChecksumWorkedValues
  decide +kernel

/-! ### Linearity (R105) -/

/-- The feedback of one bit step: the reduction by 0x09, or nothing. -/
theorem crc7Bit_eq_xor (c : Ck) (m : Bool) : crc7Bit c m = (c <<< 1) ^^^ (if c.getLsbD 6 ^^ m then 0x09 else 0) := by
  unfold crc7Bit
  split <;> simp

theorem ite_xor_distrib {w : Nat} (p q : Bool) (g : BitVec w) :
    (if p ^^ q then g else 0) = (if p then g else 0) ^^^ (if q then g else 0) := by
  cases p <;> cases q <;> simp

theorem crc7Bit_xor (c d : Ck) (m n : Bool) : crc7Bit (c ^^^ d) (m ^^ n) = crc7Bit c m ^^^ crc7Bit d n := by
  have hfeedback : ((c ^^^ d).getLsbD 6 ^^ (m ^^ n)) = ((c.getLsbD 6 ^^ m) ^^ (d.getLsbD 6 ^^ n)) := by
    simp only [BitVec.getLsbD_xor, Bool.xor_assoc, Bool.xor_left_comm]
  rw [crc7Bit_eq_xor, crc7Bit_eq_xor, crc7Bit_eq_xor, hfeedback, ite_xor_distrib, BitVec.shiftLeft_xor_distrib]
  ac_rfl

theorem foldl_crc7Bit_xor (a b : Byte) (is : List Nat) (c d : Ck) :
    is.foldl (fun r i => crc7Bit r ((a ^^^ b).getLsbD i)) (c ^^^ d) =
      is.foldl (fun r i => crc7Bit r (a.getLsbD i)) c ^^^ is.foldl (fun r i => crc7Bit r (b.getLsbD i)) d := by
  induction is generalizing c d with
  | nil => rfl
  | cons i is ih => rw [List.foldl_cons, List.foldl_cons, List.foldl_cons, BitVec.getLsbD_xor, crc7Bit_xor, ih]

theorem crc7Byte_xor (c d : Ck) (a b : Byte) : crc7Byte (c ^^^ d) (a ^^^ b) = crc7Byte c a ^^^ crc7Byte d b :=
  foldl_crc7Bit_xor a b _ c d

/-- Linearity from any two register values, so that the induction over the messages goes through. -/
theorem foldl_crc7Byte_xor {a b : List Byte} (hlen : a.length = b.length) (c d : Ck) :
    (List.zipWith (· ^^^ ·) a b).foldl crc7Byte (c ^^^ d) = a.foldl crc7Byte c ^^^ b.foldl crc7Byte d := by
  induction a generalizing b c d with
  | nil =>
    obtain rfl := List.length_eq_zero_iff.1 hlen.symm
    rfl
  | cons x xs ih =>
    cases b with
    | nil => contradiction
    | cons y ys =>
      simp only [List.zipWith_cons_cons, List.foldl_cons]
      rw [crc7Byte_xor, ih (Nat.succ.inj hlen)]

/-- Settles O49: the register starts from 0, which is the exclusive-or of two zeros. -/
theorem checksumIsLinear : Obligations.ChecksumIsLinear := fun _ _ hlen => foldl_crc7Byte_xor hlen 0 0

/-! ### The polynomial remainder (R101) -/

section
open Polynomial

/-- One bit as a coefficient over GF(2). -/
noncomputable def bitCoeff (b : Bool) : (ZMod 2)[X] := if b then 1 else 0

/-- A word as a polynomial over GF(2), bit `i` the coefficient of `X ^ i`. -/
noncomputable def wordPoly {w : Nat} (x : BitVec w) : (ZMod 2)[X] := ∑ i ∈ Finset.range w, bitCoeff (x.getLsbD i) * X ^ i

/-- A message as a polynomial over GF(2), bit 7 of its first byte the leading coefficient. -/
noncomputable def messagePoly (m : List Byte) : (ZMod 2)[X] :=
  ∑ j ∈ Finset.range (8 * m.length), bitCoeff ((m.reverse.getD (j / 8) 0).getLsbD (j % 8)) * X ^ j

/-- `G(x) = x^7 + x^3 + 1` (R101). -/
noncomputable def generator : (ZMod 2)[X] := X ^ 7 + X ^ 3 + 1

theorem bitCoeff_xor (p q : Bool) : bitCoeff (p ^^ q) = bitCoeff p + bitCoeff q := by
  cases p <;> cases q <;> simp [bitCoeff, CharTwo.add_self_eq_zero]

theorem ite_pow_eq_bitCoeff_mul (b : Bool) (n : Nat) : (if b then (X : (ZMod 2)[X]) ^ n else 0) = bitCoeff b * X ^ n := by
  rw [bitCoeff, ite_mul, one_mul, zero_mul]

theorem wordPoly_zero (w : Nat) : wordPoly (0 : BitVec w) = 0 := by simp [wordPoly, bitCoeff]

theorem wordPoly_xor {w : Nat} (x y : BitVec w) : wordPoly (x ^^^ y) = wordPoly x + wordPoly y := by
  simp only [wordPoly, BitVec.getLsbD_xor, bitCoeff_xor, add_mul, Finset.sum_add_distrib]

theorem wordPoly_ite {w : Nat} (b : Bool) (x : BitVec w) : wordPoly (if b then x else 0) = bitCoeff b * wordPoly x := by
  cases b with
  | false => exact (wordPoly_zero w).trans (zero_mul _).symm
  | true => exact (one_mul _).symm

/-- The reduction word of the bit step is `G` without its leading term. -/
theorem wordPoly_nine : wordPoly (0x09 : Ck) = X ^ 3 + 1 := by
  simp [wordPoly, bitCoeff, Finset.sum_range_succ, add_comm]

/-- A shift multiplies by `X` and drops the term that leaves the word. -/
theorem wordPoly_shiftLeft_one {w : Nat} (x : BitVec (w + 1)) :
    wordPoly (x <<< 1) = wordPoly x * X + bitCoeff (x.getLsbD w) * X ^ (w + 1) := by
  have htop : bitCoeff (x.getLsbD w) * X ^ (w + 1) + bitCoeff (x.getLsbD w) * X ^ (w + 1) = 0 := CharTwo.add_self_eq_zero _
  have hlow : bitCoeff ((x <<< 1).getLsbD 0) = 0 := by simp [bitCoeff]
  have hshift (i : Nat) (hi : i ∈ Finset.range w) :
      bitCoeff ((x <<< 1).getLsbD (i + 1)) * X ^ (i + 1) = bitCoeff (x.getLsbD i) * X ^ i * X := by
    have hiw : i < w := Finset.mem_range.1 hi
    rw [BitVec.getLsbD_shiftLeft, pow_succ, ← mul_assoc]
    simp [hiw]
  rw [wordPoly, wordPoly, Finset.sum_range_succ', Finset.sum_range_succ, hlow, add_mul, Finset.sum_mul,
    Finset.sum_congr rfl hshift]
  linear_combination -htop

/-- One bit step multiplies by `X`, adds the message bit at `X ^ 7`, and adds a multiple of `G`. -/
theorem wordPoly_crc7Bit (c : Ck) (m : Bool) :
    wordPoly (crc7Bit c m) = wordPoly c * X + bitCoeff m * X ^ 7 + bitCoeff (c.getLsbD 6 ^^ m) * generator := by
  have hcancel : bitCoeff m * X ^ 7 + bitCoeff m * X ^ 7 = 0 := CharTwo.add_self_eq_zero _
  rw [crc7Bit_eq_xor, wordPoly_xor, wordPoly_shiftLeft_one, wordPoly_ite, wordPoly_nine, bitCoeff_xor, generator]
  linear_combination -hcancel

theorem mk_wordPoly_crc7Bit (c : Ck) (m : Bool) :
    AdjoinRoot.mk generator (wordPoly (crc7Bit c m)) = AdjoinRoot.mk generator (wordPoly c * X + bitCoeff m * X ^ 7) := by
  rw [wordPoly_crc7Bit, map_add, map_mul _ _ generator, AdjoinRoot.mk_self, mul_zero, add_zero]

/-- One byte of the message, modulo `G`: eight bit steps. -/
theorem mk_wordPoly_crc7Byte (c : Ck) (b : Byte) :
    AdjoinRoot.mk generator (wordPoly (crc7Byte c b)) =
      AdjoinRoot.mk generator (wordPoly c * X ^ 8 + wordPoly b * X ^ 7) := by
  simp only [crc7Byte, List.foldl_cons, List.foldl_nil, mk_wordPoly_crc7Bit, map_add, map_mul]
  simp only [wordPoly, Finset.sum_range_succ, Finset.sum_range_zero, map_add, map_mul, map_pow, map_zero]
  ring

theorem messagePoly_nil : messagePoly [] = 0 := rfl

/-- A further byte at the end of the message takes the eight lowest coefficients. -/
theorem messagePoly_append_singleton (m : List Byte) (b : Byte) :
    messagePoly (m ++ [b]) = messagePoly m * X ^ 8 + wordPoly b := by
  have hlen : 8 * (m ++ [b]).length = 8 + 8 * m.length := by rw [List.length_append, List.length_singleton]; ring
  rw [messagePoly, hlen, Finset.sum_range_add, add_comm, messagePoly, wordPoly, Finset.sum_mul, List.reverse_append]
  refine congrArg₂ _ (Finset.sum_congr rfl fun j _ => ?_) (Finset.sum_congr rfl fun j hj => ?_)
  · have hdiv : (8 + j) / 8 = j / 8 + 1 := by omega
    have hmod : (8 + j) % 8 = j % 8 := by omega
    rw [hdiv, hmod, add_comm 8 j, pow_add, mul_assoc]
    rfl
  · have hj8 : j < 8 := Finset.mem_range.1 hj
    rw [Nat.div_eq_of_lt hj8, Nat.mod_eq_of_lt hj8]
    rfl

/-- The register and `M(x) x^7` agree modulo `G`, by induction on the message from its end. -/
theorem mk_wordPoly_crc7 (m : List Byte) :
    AdjoinRoot.mk generator (wordPoly (crc7 m)) = AdjoinRoot.mk generator (messagePoly m * X ^ 7) := by
  induction m using List.reverseRecOn with
  | nil => rw [crc7, List.foldl_nil, wordPoly_zero, messagePoly_nil, zero_mul]
  | append_singleton m b ih =>
    calc AdjoinRoot.mk generator (wordPoly (crc7 (m ++ [b])))
        = AdjoinRoot.mk generator (wordPoly (crc7Byte (crc7 m) b)) := by rw [crc7, List.foldl_append]; rfl
      _ = AdjoinRoot.mk generator (wordPoly (crc7 m)) * AdjoinRoot.mk generator (X ^ 8)
            + AdjoinRoot.mk generator (wordPoly b * X ^ 7) := by rw [mk_wordPoly_crc7Byte, map_add, map_mul]
      _ = AdjoinRoot.mk generator (messagePoly (m ++ [b]) * X ^ 7) := by
        rw [ih, ← map_mul, ← map_add, messagePoly_append_singleton]
        exact congrArg _ (by ring)

theorem generator_degree : generator.degree = 7 := by
  unfold generator
  compute_degree!

theorem generator_monic : generator.Monic := by
  unfold generator
  monicity!

theorem degree_wordPoly_lt {w : Nat} (x : BitVec w) : (wordPoly x).degree < w := by
  refine (degree_sum_le _ _).trans_lt ((Finset.sup_lt_iff (WithBot.bot_lt_coe w)).2 fun i hi => ?_)
  rw [← ite_pow_eq_bitCoeff_mul]
  split
  · rw [degree_X_pow]; exact WithBot.coe_lt_coe.2 (Finset.mem_range.1 hi)
  · rw [degree_zero]; exact WithBot.bot_lt_coe w

/-- A register value is its own remainder: it has degree below 7. -/
theorem wordPoly_modByMonic_generator (c : Ck) : wordPoly c %ₘ generator = wordPoly c :=
  (modByMonic_eq_self_iff generator_monic).2 (generator_degree ▸ degree_wordPoly_lt c)

theorem wordPoly_crc7 (m : List Byte) : wordPoly (crc7 m) = (messagePoly m * X ^ 7) %ₘ generator := by
  rw [← wordPoly_modByMonic_generator (crc7 m)]
  exact modByMonic_eq_of_dvd_sub generator_monic (AdjoinRoot.mk_eq_mk.1 (mk_wordPoly_crc7 m))

end

/-- Settles O50: the sums of the statement are `wordPoly` of the register and `messagePoly` of the message. -/
theorem checksumIsPolynomialRemainder : Obligations.ChecksumIsPolynomialRemainder := by
  refine ⟨fun _ _ => rfl, fun m => ?_⟩
  simp only [ite_pow_eq_bitCoeff_mul]
  exact wordPoly_crc7 m

end Sys2Proof.Machine

/-! PROOFS. The Command Framer: the acceptance of a SEND and its frame (spec/41_command_framer.md R110 to R114). -/

namespace Sys2Proof.Machine

/-- Steps (2) and (3) of acceptance (R30) when the precondition is met. -/
theorem accept_of_idle {s : State} (hp : s.phase = .idle) (latched : State) : accept false latched s = .next latched :=
  if_neg (not_not_intro hp)

theorem exec_send_of_idle {s : State} (hp : s.phase = .idle) (hcs : s.cs = false) (idx : CmdIdx) (arg : Word) :
    exec (.send idx arg) s = .next { s with cur := .send, idx := idx, arg := arg, phase := .cfSel } := by
  rw [exec, execSend, cycleOpen, hcs, accept_of_idle hp]

/-- Settles O11: acceptance by its own rule, then the seven steps of `run_frame_send`. The exchanges after `Select()` are those
of `s`, since acceptance and `Select()` move neither `card` nor `xchgs`; the records list the latest entry first. -/
theorem sendTransmitsFrame : Obligations.SendTransmitsFrame := by
  intro idx arg s hr hp hcs f accepted
  have hrun := run_frame_send accepted hr rfl rfl
  refine ⟨exec_send_of_idle hp hcs idx arg, hrun.trans (congrArg Host.Outcome.next ?_)⟩
  rw [hp, List.reverse_cons (a := Call.select), List.append_assoc, List.reverse_concat (a := DiagEvent.cmd idx arg)]
  rfl

end Sys2Proof.Machine

/-! PROOFS. The Response Reader: the acceptance of a RESP, the bytes it stores after the skip, and the bound on the skip
(spec/42_response_reader.md R120 to R126). -/

namespace Sys2Proof.Machine

/-! ### Acceptance -/

theorem exec_respOf_of_idle {s : State} (hp : s.phase = .idle) (hcs : s.cs = true) (l : RespLen) :
    exec (respOf l) s = .next { s with cur := .resp, len := lenOf l, rlen := 0, poll := 0, phase := .rrSkip } := by
  have hexec : exec (respOf l) s = acceptResp l s := by cases l <;> rfl
  rw [hexec, acceptResp, cycleClosed, hcs, Bool.not_true, accept_of_idle hp]

/-! ### The rows after the skip -/

section
variable {s : State} (hr : s.rst = false)
include hr

/-- Row `RR_SKIP` at the bound: no exchange (R124). -/
theorem step_rrSkip_timeout (hp : s.phase = .rrSkip) (hl : limitReached s.cfg.pollLimit s.poll = true) :
    step s = .next (completeResp .timeout s) :=
  (step_rrSkip hr hp).trans (if_pos hl)

/-- Row `RR_SKIP` on a byte that is no filler (R122): it is `RESP[0]`, and the only one if `LEN = 1`. -/
theorem step_rrSkip_capture (hp : s.phase = .rrSkip) (hl : limitReached s.cfg.pollLimit s.poll = false)
    (hf : isFiller (s.rx 0) = false) :
    step s = .next (
      let t := { xchg fill s with poll := s.poll + 1, resp := s.resp.set 0 (s.rx 0), rlen := 1 }
      if s.len = 1 then completeResp .ok t else { t with cnt := 1, phase := .rrRest }) := by
  rw [step_rrSkip hr hp, rrSkip, if_neg (by simp [hl])]
  refine (if_neg (by simp [hf])).trans ?_
  split <;> rfl

/-- Row `RR_REST` (R123): byte `n` is stored, and the last one completes. -/
theorem step_rrRest_store {n : Nat} (hp : s.phase = .rrRest) (hc : s.cnt = BitVec.ofNat 10 n) (hn : n < 5) :
    step s = .next (
      let t := { xchg fill s with resp := s.resp.set n (s.rx 0), rlen := BitVec.ofNat 3 (n + 1) }
      if n + 1 = s.len.toNat then completeResp .ok t else { t with cnt := BitVec.ofNat 10 (n + 1) }) := by
  have hcnt : s.cnt.toNat = n := by rw [hc, BitVec.toNat_ofNat]; omega
  have hnext : s.cnt + 1 = BitVec.ofNat 10 (n + 1) := by rw [hc, BitVec.ofNat_add]; rfl
  rw [step_rrRest hr hp, rrRest, dif_pos (by omega)]
  simp only [hcnt, hnext]
  split <;> rfl

end

/-! ### The skip and the stored bytes -/

/-- The state when a RESP accepted in `s` has dropped `k` filler bytes (R122). -/
def respSkipped (k : Nat) (s : State) : State := { transmitted (List.replicate k fill) s with poll := k }

/-- `RESP` when, after `k` filler bytes, the card's next `n` bytes are stored in `RESP[0..n-1]` (R120). -/
def respAfter (k n : Nat) (s : State) : Vector Byte 5 :=
  Vector.ofFn fun i => if i.val < n then s.rx (k + i.val) else s.resp[i]

/-- The state in `RR_REST` when a RESP accepted in `s` has dropped `k` filler bytes and stored the `n` bytes after them (R123). -/
def respStored (k n : Nat) (s : State) : State :=
  { transmitted (List.replicate (k + n) fill) s with
    poll := k + 1, resp := respAfter k n s, rlen := BitVec.ofNat 3 n, cnt := BitVec.ofNat 10 n, phase := .rrRest }

theorem respAfter_get (k n : Nat) (s : State) (i : Fin 5) :
    (respAfter k n s)[i] = if i.val < n then s.rx (k + i.val) else s.resp[i] := by simp [respAfter]

theorem respAfter_zero (k : Nat) (s : State) : respAfter k 0 s = s.resp := Vector.ext fun i hi => by simp [respAfter]

theorem respAfter_succ (k : Nat) (s : State) {n : Nat} (hn : n < 5) :
    respAfter k (n + 1) s = (respAfter k n s).set n (s.rx (k + n)) := by
  refine Vector.ext fun i hi => ?_
  rcases Nat.lt_trichotomy n i with h | rfl | h
  · simp [respAfter, h.ne, h.not_ge, h.not_gt]
  · simp [respAfter]
  · simp [respAfter, h.ne', h, h.le]

/-- `RESP[0..n-1]` are the `n` bytes stored. -/
theorem respAfter_take (k : Nat) (s : State) {n : Nat} (hn : n ≤ 5) :
    (respAfter k n s).toList.take n = (List.range n).map fun i => s.rx (k + i) := by
  refine List.ext_getElem (by simpa using hn) fun i h _ => ?_
  have hi : i < n := by simp at h; omega
  simp [respAfter, hi]

theorem transmitted_replicate_succ (n : Nat) (s : State) :
    transmitted (List.replicate (n + 1) fill) s = xchg fill (transmitted (List.replicate n fill) s) := by
  rw [List.replicate_succ', transmitted_append, transmitted_cons, transmitted_nil]

theorem rx_respSkipped (k : Nat) (s : State) : (respSkipped k s).rx 0 = s.rx k :=
  (rx_transmitted (List.replicate k fill) s 0).trans (by rw [List.length_replicate, Nat.add_zero])

theorem rx_respStored (k n : Nat) (s : State) : (respStored k n s).rx 0 = s.rx (k + n) :=
  rx_respSkipped (k + n) s

/-- The byte that ends the skip, stored. -/
theorem respStored_one (k : Nat) (s : State) :
    respStored k 1 s =
      { xchg fill (respSkipped k s) with
        poll := k + 1, resp := s.resp.set 0 (s.rx k), rlen := 1, cnt := 1, phase := .rrRest } := by
  rw [respStored, transmitted_replicate_succ, respAfter_succ k s (by decide), respAfter_zero]
  rfl

/-- One more byte stored. -/
theorem respStored_succ (k : Nat) (s : State) {n : Nat} (hn : n < 5) :
    respStored k (n + 1) s =
      { xchg fill (respStored k n s) with
        resp := (respStored k n s).resp.set n (s.rx (k + n)), rlen := BitVec.ofNat 3 (n + 1)
        cnt := BitVec.ofNat 10 (n + 1) } := by
  rw [respStored, ← Nat.add_assoc, transmitted_replicate_succ, respAfter_succ k s hn]
  rfl

/-! ### The run of an accepted RESP -/

section
variable {s : State} {k : Nat} (hr : s.rst = false)
include hr

/-- Short of the bound, `k` filler bytes take `k` steps and are stored nowhere (R122). -/
theorem run_respSkipped (hp : s.phase = .rrSkip) (hpoll : s.poll = 0) (hfill : AllFiller s 0 k)
    (hlim : ∀ j < k, limitReached s.cfg.pollLimit j = false) : run k s = .next (respSkipped k s) := by
  have h := run_poll (dropped := isFiller) (fun _ => rrSkip_filler) k s hr hp (fun j hj => by simpa using hfill j hj)
    (fun j hj => by simpa [hpoll] using hlim j hj)
  rwa [hpoll, Nat.zero_add] at h

/-- The byte that ends the skip (R122). -/
theorem step_respSkipped (hp : s.phase = .rrSkip) (hlim : limitReached s.cfg.pollLimit k = false)
    (hbyte : isFiller (s.rx k) = false) :
    step (respSkipped k s) =
      .next (if s.len = 1 then completeResp .ok { respStored k 1 s with cnt := s.cnt } else respStored k 1 s) := by
  have h := step_rrSkip_capture (s := respSkipped k s) hr hp hlim (by rwa [rx_respSkipped])
  rw [rx_respSkipped] at h
  rw [h, respStored_one]
  rfl

/-- Each byte after it (R123). -/
theorem step_respStored {n : Nat} (hn : n < 5) :
    step (respStored k n s) =
      .next (if n + 1 = s.len.toNat then completeResp .ok { respStored k (n + 1) s with cnt := BitVec.ofNat 10 n }
        else respStored k (n + 1) s) := by
  have h := step_rrRest_store (s := respStored k n s) (n := n) hr rfl rfl hn
  rw [rx_respStored] at h
  rw [h, respStored_succ k s hn]
  rfl

/-- All the bytes but the last one of a longer response (R123). -/
theorem run_respStored (h5 : s.len.toNat ≤ 5) {m : Nat} (hm : m + 1 < s.len.toNat) :
    run m (respStored k 1 s) = .next (respStored k (m + 1) s) := by
  induction m with
  | zero => rfl
  | succ m ih =>
    refine (run_add (ih (by omega))).trans (run_one ?_)
    rw [step_respStored hr (by omega), if_neg hm.ne]

/-- From the byte that ends the skip, `LEN` bytes are stored in `LEN` steps, the last of which completes (R122, R123). -/
theorem run_respBytes (hp : s.phase = .rrSkip) (hlim : limitReached s.cfg.pollLimit k = false)
    (hbyte : isFiller (s.rx k) = false) (h1 : 1 ≤ s.len.toNat) (h5 : s.len.toNat ≤ 5) :
    run s.len.toNat (respSkipped k s) = .next (completeResp .ok { respStored k s.len.toNat s with
      cnt := if s.len.toNat = 1 then s.cnt else BitVec.ofNat 10 (s.len.toNat - 1) }) := by
  have hfirst := step_respSkipped hr hp hlim hbyte
  rcases Nat.eq_or_lt_of_le h1 with hone | hmore
  · rw [if_pos (BitVec.eq_of_toNat_eq hone.symm)] at hfirst
    rw [← hone, run_one hfirst, if_pos rfl]
  · obtain ⟨m, hm⟩ : ∃ m, s.len.toNat = m + 1 + 1 := ⟨s.len.toNat - 2, by omega⟩
    rw [if_neg fun h => by simp [h] at hmore] at hfirst
    have hrest : run m (respStored k 1 s) = .next (respStored k (m + 1) s) := run_respStored hr h5 (by omega)
    have hlast := step_respStored (k := k) (n := m + 1) hr (by omega)
    rw [if_pos hm.symm] at hlast
    rw [hm, run_succ hfirst, run_add hrest, run_one hlast, if_neg (by omega), Nat.add_sub_cancel]

end

theorem lenOf_range (l : RespLen) : 1 ≤ (lenOf l).toNat ∧ (lenOf l).toNat ≤ 5 := by cases l <;> decide

/-- Settles O12: acceptance, the skip of `k` filler bytes, then the `len` stored bytes. -/
theorem respReadsResponse : Obligations.RespReadsResponse := by
  intro l k s hr hp hcs hfill hbyte hlim n accepted
  obtain ⟨h1, h5⟩ := lenOf_range l
  have hlimit := limitReached_of_within hlim
  have hskip : run k accepted = .next (respSkipped k accepted) :=
    run_respSkipped hr rfl rfl hfill fun j hj => hlimit j hj.le
  have hbytes := run_respBytes (s := accepted) hr rfl (hlimit k le_rfl) hbyte h1 h5
  have hdiag : (respAfter k n accepted).toList.take n = (List.range n).map fun i => s.rx (k + i) :=
    respAfter_take k accepted h5
  have hrlen : BitVec.ofNat 3 n = lenOf l := BitVec.ofNat_toNat ..
  refine ⟨exec_respOf_of_idle hp hcs l, respAfter k n accepted, respAfter_get k n accepted, ?_⟩
  refine (run_add hskip).trans (hbytes.trans (congrArg Host.Outcome.next ?_))
  rw [hp, ← hdiag, respStored, transmitted, List.length_replicate, hrlen]
  rfl

/-- Settles O13: acceptance, the skip up to its bound, then the step that makes no exchange. -/
theorem respTimesOut : Obligations.RespTimesOut := by
  intro l n s hr hp hcs hlim hfill accepted
  have hbelow : ∀ j < n, limitReached s.cfg.pollLimit j = false := fun j hj => by simpa [hlim, limitReached] using hj.ne
  have hbound : limitReached s.cfg.pollLimit n = true := by simp [hlim, limitReached]
  have hskip : run n accepted = .next (respSkipped n accepted) := run_respSkipped hr rfl rfl hfill hbelow
  have hlast := step_rrSkip_timeout (s := respSkipped n accepted) hr rfl hbound
  refine ⟨exec_respOf_of_idle hp hcs l, (run_add hskip).trans ((run_one hlast).trans (congrArg Host.Outcome.next ?_))⟩
  rw [hp, respSkipped, transmitted, List.length_replicate]
  rfl

end Sys2Proof.Machine

/-! PROOFS. The Block Reader: the acceptance of an RDBLK, its two polls, its payload, and each row of R139 a read can end in
(spec/43_block_reader.md R130 to R141). -/

namespace Sys2Proof.Machine

/-! ### Acceptance, and the state of a read after a number of filler exchanges -/

/-- The state an accepted RDBLK starts from (R30, R130, R131). -/
def rdblkAccepted (addr : Word) (s : State) : State :=
  { s with cur := .rdblk, idx := readBlockIdx, arg := addr, status := 0xFF, token := 0xFF, phase := .cfSel }

theorem exec_rdblk_of_idle {s : State} (hp : s.phase = .idle) (hcs : s.cs = false) (addr : Word) :
    exec (.rdblk addr) s = .next (rdblkAccepted addr s) := by
  have hlegal : cycleOpen s = false := hcs
  rw [exec, execRdblk, hlegal, accept_of_idle hp]
  rfl

/-- An RDBLK accepted in `s` that has sent its frame and made `x` filler exchanges since, its registers as the status wait finds
them: what the later phases write is written over it. -/
def reading (addr : Word) (x : Nat) (s : State) : State :=
  { rdblkAccepted addr s with
    phase := .brStatus, cnt := 5, poll := 0, cs := true, line := true, card := s.card.drop (x + 6), xchgs := s.xchgs + (x + 6)
    trace :=
      (.select :: exchanges s 0 (frame s.cfg.cksumMode readBlockIdx addr) ++ exchanges s 6 (List.replicate x fill)).reverse ++
        s.trace
    diag :=
      (diagBytes s 0 (frame s.cfg.cksumMode readBlockIdx addr) ++
        DiagEvent.cmd readBlockIdx addr :: diagBytes s 6 (List.replicate x fill)).reverse ++ s.diag }

theorem rx_reading (addr : Word) (x n : Nat) (s : State) : (reading addr x s).rx n = s.rx (x + 6 + n) := by
  simp [State.rx, reading, Nat.add_assoc]

theorem exchanges_singleton (s : State) (n : Nat) (tx : Byte) : exchanges s n [tx] = [.xchg tx (s.rx n)] := rfl

theorem diagBytes_singleton (s : State) (n : Nat) (tx : Byte) : diagBytes s n [tx] = [.byte tx (s.rx n)] := rfl

theorem xchg_reading (addr : Word) (x : Nat) (s : State) : xchg fill (reading addr x s) = reading addr (x + 1) s := by
  rw [xchg, rx_reading]
  simp [reading, rdblkAccepted, List.replicate_succ', exchanges_append, diagBytes_append, exchanges_singleton,
    diagBytes_singleton, Nat.add_assoc, Nat.add_comm 6 x]

theorem transmitted_reading (addr : Word) (x k : Nat) (s : State) :
    transmitted (List.replicate k fill) (reading addr x s) = reading addr (x + k) s := by
  induction k with
  | zero => rw [List.replicate_zero, transmitted_nil, Nat.add_zero]
  | succ k ih => rw [transmitted_replicate_succ, ih, xchg_reading, Nat.add_assoc]

theorem run_reading {s : State} (hr : s.rst = false) (addr : Word) :
    run 7 (rdblkAccepted addr s) = .next (reading addr 0 s) := by
  refine (run_frame_rdblk (rdblkAccepted addr s) hr rfl rfl).trans (congrArg Host.Outcome.next ?_)
  rw [reading, List.replicate_zero, List.reverse_append, List.reverse_append, List.reverse_cons, List.append_assoc]
  rfl

/-! ### The rows that end a poll -/

section
variable {s : State} (hr : s.rst = false)
include hr

/-- The status poll at its bound: no exchange (R140). -/
theorem step_brStatus_timeout (hp : s.phase = .brStatus) (hl : limitReached s.cfg.pollLimit s.poll = true) :
    step s = .next { s with kind := .timeout, phase := .brDesel } :=
  (step_brStatus hr hp).trans (if_pos hl)

/-- The token wait at its bound: no exchange (R140). -/
theorem step_brToken_timeout (hp : s.phase = .brToken) (hl : limitReached s.cfg.pollLimit s.poll = true) :
    step s = .next { s with kind := .timeout, phase := .brDesel } :=
  (step_brToken hr hp).trans (if_pos hl)

/-- A zero status starts the token wait (R132). -/
theorem step_brStatus_zero (hp : s.phase = .brStatus) (hl : limitReached s.cfg.pollLimit s.poll = false)
    (hb : s.rx 0 = 0x00) : step s = .next { xchg fill s with poll := 0, status := 0x00, phase := .brToken } := by
  rw [step_brStatus hr hp, brStatus, if_neg (by simp [hl]), hb]
  rfl

/-- A non-zero status ends the read (R132). -/
theorem step_brStatus_error (hp : s.phase = .brStatus) (hl : limitReached s.cfg.pollLimit s.poll = false)
    (hf : isFiller (s.rx 0) = false) (hb : s.rx 0 ≠ 0x00) :
    step s = .next
      { xchg fill s with poll := s.poll + 1, status := s.rx 0, kind := .operationFailed, phase := .brDesel } := by
  rw [step_brStatus hr hp, brStatus, if_neg (by simp [hl])]
  exact (if_neg (by simp [hf])).trans (if_pos (by simpa [isErrorStatus] using hb))

/-- The start token starts the payload (R134). -/
theorem step_brToken_start (hp : s.phase = .brToken) (hl : limitReached s.cfg.pollLimit s.poll = false)
    (hb : s.rx 0 = 0xFE) :
    step s = .next { xchg fill s with poll := s.poll + 1, token := 0xFE, cnt := 0, phase := .brData } := by
  rw [step_brToken hr hp, brToken, if_neg (by simp [hl]), hb]
  rfl

/-- Any other token ends the read (R137). -/
theorem step_brToken_error (hp : s.phase = .brToken) (hl : limitReached s.cfg.pollLimit s.poll = false)
    (hready : s.rx 0 ≠ 0xFF) (hstart : s.rx 0 ≠ 0xFE) :
    step s = .next { xchg fill s with poll := s.poll + 1, token := s.rx 0, kind := .tokenError, phase := .brDesel } := by
  rw [step_brToken hr hp, brToken, if_neg (by simp [hl])]
  exact (if_pos (by simpa [isToken] using hready)).trans (if_neg (by simpa [isStartToken] using hstart))

end

/-! ### The two polls of an accepted read -/

theorem limitReached_of_lt {l : Limit} {n j : Nat} (hl : l = .upTo n) (hj : j < n) : limitReached l j = false := by
  simpa [hl, limitReached] using hj.ne

theorem limitReached_of_eq {l : Limit} {n : Nat} (hl : l = .upTo n) : limitReached l n = true := by
  simp [hl, limitReached]

theorem withinLimit_of_lt {l : Limit} {n k : Nat} (hl : l = .upTo n) (hk : k < n) : withinLimit l k := by
  rw [hl]
  exact hk

/-- The read in its status wait, `k` filler bytes dropped (R132). -/
def statusWait (addr : Word) (k : Nat) (s : State) : State := { reading addr k s with poll := k }

/-- The read in its token wait, a zero status after `k1` filler bytes and `k2` not-ready bytes dropped (R133). -/
def tokenWait (addr : Word) (k1 k2 : Nat) (s : State) : State :=
  { reading addr (k1 + 1 + k2) s with poll := k2, status := 0x00, phase := .brToken }

theorem rx_statusWait (addr : Word) (k j : Nat) (s : State) : (statusWait addr k s).rx j = s.rx (6 + k + j) :=
  (rx_reading addr k j s).trans (congrArg s.rx (by omega))

theorem rx_tokenWait (addr : Word) (k1 k2 j : Nat) (s : State) : (tokenWait addr k1 k2 s).rx j = s.rx (7 + k1 + k2 + j) :=
  (rx_reading addr (k1 + 1 + k2) j s).trans (congrArg s.rx (by omega))

theorem statusWait_of_zero (addr : Word) (k : Nat) (s : State) :
    { transmitted (List.replicate k fill) (statusWait addr 0 s) with poll := k } = statusWait addr k s := by
  have h := transmitted_reading addr 0 k s
  rw [Nat.zero_add] at h
  exact congrArg (fun t : State => { t with poll := k }) h

theorem tokenWait_of_zero (addr : Word) (k1 k2 : Nat) (s : State) :
    { transmitted (List.replicate k2 fill) (tokenWait addr k1 0 s) with poll := k2 } = tokenWait addr k1 k2 s :=
  congrArg (fun t : State => { t with poll := k2, status := 0x00, phase := .brToken }) (transmitted_reading addr (k1 + 1) k2 s)

section
variable {s : State} (hr : s.rst = false) (addr : Word) {k1 k2 : Nat} (hfill : AllFiller s 6 k1)
include hr hfill

/-- Short of the bound, each filler byte takes a step (R132). -/
theorem run_statusWait (hlim : ∀ j < k1, limitReached s.cfg.pollLimit j = false) :
    run (7 + k1) (rdblkAccepted addr s) = .next (statusWait addr k1 s) := by
  have hpoll := run_poll (dropped := isFiller) (fun _ => brStatus_filler) k1 (statusWait addr 0 s) hr rfl
    (fun j hj => (congrArg isFiller (rx_statusWait addr 0 j s)).trans (hfill j hj))
    (fun j hj => (Nat.zero_add j).symm ▸ hlim j hj)
  have hcount : (statusWait addr 0 s).poll + k1 = k1 := Nat.zero_add k1
  rw [hcount, statusWait_of_zero] at hpoll
  exact (run_add (run_reading hr addr)).trans hpoll

variable (hzero : s.rx (6 + k1) = 0x00) (hlim1 : withinLimit s.cfg.pollLimit k1)
include hzero hlim1

/-- A zero status after them starts the token wait (R132). -/
theorem run_statusZero : run (7 + k1 + 1) (rdblkAccepted addr s) = .next (tokenWait addr k1 0 s) := by
  have hlim := limitReached_of_within hlim1
  have hrow := step_brStatus_zero (s := statusWait addr k1 s) hr rfl (hlim k1 le_rfl)
    ((rx_statusWait addr k1 0 s).trans hzero)
  rw [run_add (run_statusWait hr addr hfill fun j hj => hlim j hj.le), run_one hrow, tokenWait, ← xchg_reading]
  rfl

/-- Short of the bound, each not-ready byte takes a step (R133). -/
theorem run_tokenWait (hwait : AllNotReady s (7 + k1) k2) (hlim2 : ∀ j < k2, limitReached s.cfg.pollLimit j = false) :
    run (7 + k1 + 1 + k2) (rdblkAccepted addr s) = .next (tokenWait addr k1 k2 s) := by
  have hdropped (j : Nat) (hj : j < k2) : (!isToken ((tokenWait addr k1 0 s).rx j)) = true := by
    rw [rx_tokenWait, Nat.add_zero, hwait j hj]
    rfl
  have hpoll := run_poll (dropped := fun b => !isToken b) (fun _ => brToken_notReady) k2 (tokenWait addr k1 0 s) hr rfl
    hdropped (fun j hj => (Nat.zero_add j).symm ▸ hlim2 j hj)
  have hcount : (tokenWait addr k1 0 s).poll + k2 = k2 := Nat.zero_add k2
  rw [hcount, tokenWait_of_zero] at hpoll
  exact (run_add (run_statusZero hr addr hfill hzero hlim1)).trans hpoll

end

/-! ### A read that fails -/

/-- The state after a read accepted in `s` has failed with the kind `k`, the poll it ended in having counted `p` (R138, R139): its
frame and `x` filler exchanges, then step 5, the whole buffer undefined (R52). -/
def readFailed (addr : Word) (x p : Nat) (status token : Byte) (k : Kind) (s : State) : State :=
  { s with
    cur := .none, idx := readBlockIdx, arg := addr, cnt := 5, poll := p, cs := false, line := false
    status := status, token := token, kind := k, buf := [], bufEpoch := s.bufEpoch + 1
    card := s.card.drop (x + 7), xchgs := s.xchgs + (x + 7)
    trace :=
      (.select :: exchanges s 0 (frame s.cfg.cksumMode readBlockIdx addr) ++ exchanges s 6 (List.replicate x fill) ++
        .deselect :: exchanges s (x + 6) [fill]).reverse ++ s.trace
    diag :=
      (diagBytes s 0 (frame s.cfg.cksumMode readBlockIdx addr) ++
        DiagEvent.cmd readBlockIdx addr :: diagBytes s 6 (List.replicate (x + 1) fill)).reverse ++ s.diag
    results := k :: s.results, abandoned := false }

/-- Step 5 of a read that failed (R138). -/
theorem run_step5_reading {s : State} (hr : s.rst = false) (hp : s.phase = .idle) (addr : Word) (x p : Nat)
    (status token : Byte) {k : Kind} (hk : k ≠ .ok) :
    run 2 { reading addr x s with poll := p, status := status, token := token, kind := k, phase := .brDesel } =
      .next (readFailed addr x p status token k s) := by
  rw [run_step5_failed _ (by exact hr) rfl (by exact hk)]
  simp [bufUndefined, complete, xchg, deselect, State.rx, readFailed, reading, rdblkAccepted, hp, exchanges_singleton,
    diagBytes_singleton, diagBytes_append, List.replicate_succ', Nat.add_assoc, Nat.add_comm 6 x]

/-- A read that a row of one of its polls ends is over three steps from the poll: the row, then step 5 (R138). -/
theorem run_readFailed {s w : State} {addr : Word} {m n x p : Nat} {status token : Byte} {k : Kind} (hr : s.rst = false)
    (hp : s.phase = .idle) (hk : k ≠ .ok) (hpoll : run m (rdblkAccepted addr s) = .next w)
    (hrow : step w = .next
      { reading addr x s with poll := p, status := status, token := token, kind := k, phase := .brDesel })
    (hn : n = m + 3) : run n (rdblkAccepted addr s) = .next (readFailed addr x p status token k s) := by
  rw [hn, run_add hpoll, run_succ hrow, run_step5_reading hr hp addr x p status token hk]

/-- Settles O16: the status wait, the row of a non-zero status, then step 5. -/
theorem rdblkFailsOnErrorStatus : Obligations.RdblkFailsOnErrorStatus := by
  intro addr k s hr hp hcs hfill hbyte herror hlim f accepted
  have hlimit := limitReached_of_within hlim
  have hrx : (statusWait addr k s).rx 0 = s.rx (6 + k) := rx_statusWait addr k 0 s
  have hrow := step_brStatus_error (s := statusWait addr k s) hr rfl (hlimit k le_rfl) (by rwa [hrx]) (by rwa [hrx])
  have hend : run (k + 10) accepted =
      .next (readFailed addr (k + 1) (k + 1) (s.rx (6 + k)) 0xFF .operationFailed s) := by
    refine run_readFailed hr hp (by decide) (run_statusWait hr addr hfill fun j hj => hlimit j hj.le) ?_ (by omega)
    rw [hrow, hrx, ← xchg_reading]
    rfl
  exact ⟨exec_rdblk_of_idle hp hcs addr, hend⟩

/-- Settles O17: the two polls, the row of a token that is not the start token, then step 5. -/
theorem rdblkFailsOnErrorToken : Obligations.RdblkFailsOnErrorToken := by
  intro addr k1 k2 s hr hp hcs hfill hzero hlim1 hwait hready hstart hlim2 f accepted
  have hlimit := limitReached_of_within hlim2
  have hrx : (tokenWait addr k1 k2 s).rx 0 = s.rx (7 + k1 + k2) := rx_tokenWait addr k1 k2 0 s
  have hrow := step_brToken_error (s := tokenWait addr k1 k2 s) hr rfl (hlimit k2 le_rfl) (by rwa [hrx]) (by rwa [hrx])
  have hend : run (k1 + k2 + 11) accepted =
      .next (readFailed addr (k1 + k2 + 2) (k2 + 1) 0x00 (s.rx (7 + k1 + k2)) .tokenError s) := by
    refine run_readFailed hr hp (by decide)
      (run_tokenWait hr addr hfill hzero hlim1 hwait fun j hj => hlimit j hj.le) ?_ (by omega)
    rw [hrow, hrx, show k1 + k2 + 2 = k1 + 1 + k2 + 1 by omega, ← xchg_reading]
    rfl
  exact ⟨exec_rdblk_of_idle hp hcs addr, hend⟩

/-- Settles O18: each poll up to its bound, the row that makes no exchange, then step 5. -/
theorem rdblkTimesOut : Obligations.RdblkTimesOut := by
  intro addr n s hr hp hcs hlim f accepted ended
  have hbelow (j : Nat) (hj : j < n) : limitReached s.cfg.pollLimit j = false := limitReached_of_lt hlim hj
  have hbound : limitReached s.cfg.pollLimit n = true := limitReached_of_eq hlim
  refine ⟨exec_rdblk_of_idle hp hcs addr, fun hfill => ?_, fun k hfill hzero hk hwait => ?_⟩
  · exact run_readFailed (status := 0xFF) (token := 0xFF) (k := .timeout) hr hp (by decide) (run_statusWait hr addr hfill hbelow)
      (step_brStatus_timeout (s := statusWait addr n s) hr rfl hbound) (by omega)
  · exact run_readFailed (status := 0x00) (token := 0xFF) (k := .timeout) hr hp (by decide)
      (run_tokenWait hr addr hfill hzero (withinLimit_of_lt hlim hk) hwait hbelow)
      (step_brToken_timeout (s := tokenWait addr k n s) hr rfl hbound) (by omega)

/-! ### The payload and the end of a read that succeeds -/

/-- The state when a read that has stored its block has discarded the two checksum bytes and performed step 5 (R136, R138). -/
def checksumRead (s : State) : State :=
  complete .ok (xchg fill (deselect { xchg fill (xchg fill s) with cnt := 1, kind := .ok }))

section
variable {s : State} (hr : s.rst = false)
include hr

/-- Row `BR_DATA` (R135): byte `n` is stored at index `n`, and the last one leads to the checksum. -/
theorem step_brData_store {n : Nat} (hp : s.phase = .brData) (hc : s.cnt = BitVec.ofNat 10 n) (hn : n < blockLen) :
    step s = .next (
      let t := memWrite n (s.rx 0) (xchg fill s)
      if n = 511 then { t with cnt := 0, phase := .brCrc } else { t with cnt := BitVec.ofNat 10 (n + 1) }) := by
  have hcnt : s.cnt.toNat = n := by rw [hc, BitVec.toNat_ofNat]; exact Nat.mod_eq_of_lt (hn.trans (by decide))
  have hnext : s.cnt + 1 = BitVec.ofNat 10 (n + 1) := by rw [hc, BitVec.ofNat_add]; rfl
  have hlast : s.cnt = 511 ↔ n = 511 := by rw [← hcnt]; exact BitVec.toNat_inj.symm
  rw [step_brData hr hp, brData, if_pos (hcnt.trans_lt hn)]
  simp only [hcnt, hnext, hlast]
  split <;> rfl

/-- Rows `BR_CRC`, `BR_DESEL` and `BR_TRAIL` (R136, R138). -/
theorem run_checksumRead : run 4 { s with cnt := 0, phase := .brCrc } = .next (checksumRead s) := by
  have hfirst : step { s with cnt := 0, phase := .brCrc } = .next { xchg fill s with cnt := 1, phase := .brCrc } :=
    step_brCrc (by exact hr) rfl
  have hsecond : step { xchg fill s with cnt := 1, phase := .brCrc } =
      .next { xchg fill (xchg fill s) with cnt := 1, kind := .ok, phase := .brDesel } := step_brCrc (by exact hr) rfl
  rw [run_succ hfirst, run_succ hsecond, run_step5_ok _ (by exact hr) rfl rfl]
  rfl

end

/-- `BUF` when the card's next `n` bytes have been stored in `BUF[0..n-1]` (R135). -/
def payloadBuf (s : State) : Nat → List Host.Cell
  | 0 => s.buf
  | n + 1 => Memory.write n (s.rx n) (payloadBuf s n)

theorem payloadBuf_wf {s : State} (hwf : Memory.wf s.buf) : ∀ {n : Nat}, n ≤ blockLen → Memory.wf (payloadBuf s n)
  | 0, _ => hwf
  | _ + 1, hn => Memory.wf_write (payloadBuf_wf hwf (Nat.le_of_succ_le hn)) hn

theorem read_payloadBuf {s : State} (hwf : Memory.wf s.buf) (i : Nat) {n : Nat} (hn : n ≤ blockLen) :
    Memory.read i (payloadBuf s n) = if i < n then some (s.rx i) else Memory.read i s.buf := by
  induction n with
  | zero => rfl
  | succ n ih =>
    have hn' : n ≤ blockLen := Nat.le_of_succ_le hn
    rw [payloadBuf, Memory.read_write _ _ _ _ (payloadBuf_wf hwf hn'), ih hn']
    rcases Nat.lt_trichotomy i n with h | rfl | h
    · rw [if_neg h.ne, if_pos h, if_pos (by omega)]
    · rw [if_pos rfl, if_pos (by omega)]
    · rw [if_neg h.ne', if_neg (by omega), if_neg (by omega)]

/-- The calls of the first `n` payload bytes (R135, R60), in order. -/
def storeCalls (s : State) (n : Nat) : List Call :=
  (List.range n).flatMap fun i => [.xchg fill (s.rx i), .memWrite i (s.rx i)]

theorem storeCalls_succ (s : State) (n : Nat) :
    storeCalls s (n + 1) = storeCalls s n ++ [.xchg fill (s.rx n), .memWrite n (s.rx n)] := by
  simp [storeCalls, List.range_succ]

/-- The state in `BR_DATA` when a read there has stored its first `n` payload bytes (R135). -/
def payloadStored (n : Nat) (s : State) : State :=
  { transmitted (List.replicate n fill) s with
    cnt := BitVec.ofNat 10 n, buf := payloadBuf s n, trace := (storeCalls s n).reverse ++ s.trace }

theorem rx_payloadStored (n j : Nat) (s : State) : (payloadStored n s).rx j = s.rx (n + j) :=
  (rx_transmitted (List.replicate n fill) s j).trans (by rw [List.length_replicate])

theorem payloadStored_rst (n : Nat) (s : State) : (payloadStored n s).rst = s.rst := rfl

theorem payloadStored_zero {s : State} (hc : s.cnt = 0) : payloadStored 0 s = s := by
  rw [payloadStored, List.replicate_zero, transmitted_nil, ← show s.cnt = BitVec.ofNat 10 0 from hc]
  rfl

theorem payloadStored_succ (n : Nat) (s : State) :
    payloadStored (n + 1) s =
      { memWrite n (s.rx n) (xchg fill (payloadStored n s)) with cnt := BitVec.ofNat 10 (n + 1) } := by
  have hrx : (payloadStored n s).rx 0 = s.rx n := rx_payloadStored n 0 s
  rw [payloadStored, transmitted_replicate_succ, storeCalls_succ, List.reverse_append, payloadBuf, ← hrx]
  rfl

section
variable {s : State} (hr : s.rst = false) (hp : s.phase = .brData)
include hr hp

/-- One more payload byte (R135). -/
theorem step_payloadStored {n : Nat} (hn : n < blockLen) :
    step (payloadStored n s) = .next (
      if n = 511 then { payloadStored (n + 1) s with cnt := 0, phase := .brCrc } else payloadStored (n + 1) s) := by
  have hrow := step_brData_store (s := payloadStored n s) hr hp rfl hn
  have hrx : (payloadStored n s).rx 0 = s.rx n := rx_payloadStored n 0 s
  rw [hrow, hrx, payloadStored_succ]

variable (hc : s.cnt = 0)
include hc

/-- All the payload bytes but the last one (R135). -/
theorem run_payloadStored {n : Nat} (hn : n < blockLen) : run n s = .next (payloadStored n s) := by
  induction n with
  | zero => rw [payloadStored_zero hc]; rfl
  | succ n ih =>
    have hlt : n < 511 := Nat.lt_of_succ_lt_succ hn
    rw [run_add (ih (Nat.lt_of_succ_lt hn)), run_one (step_payloadStored hr hp (Nat.lt_of_succ_lt hn)), if_neg hlt.ne]

/-- From the start token on a read takes 516 steps: the payload, the checksum, step 5 (R135, R136, R138). -/
theorem run_blockRead : run 516 s = .next (checksumRead (payloadStored blockLen s)) := by
  have hlast := step_payloadStored hr hp (n := 511) (by decide)
  rw [if_pos rfl] at hlast
  have hchecksum := run_checksumRead (s := payloadStored blockLen s) ((payloadStored_rst blockLen s).trans hr)
  rw [show 516 = 511 + (1 + 4) from rfl, run_add (run_payloadStored hr hp hc (by decide)), run_add (run_one hlast)]
  exact hchecksum

end

/-- The calls of `n` payload bytes, of the checksum and of step 5 (R135, R136, R138). -/
theorem checksumRead_payloadStored_trace (n : Nat) (s : State) :
    (checksumRead (payloadStored n s)).trace =
      (storeCalls s n ++ exchanges s n [fill, fill] ++ .deselect :: exchanges s (n + 2) [fill]).reverse ++ s.trace := by
  have h0 : (payloadStored n s).rx 0 = s.rx n := rx_payloadStored n 0 s
  have h1 : (xchg fill (payloadStored n s)).rx 0 = s.rx (n + 1) := by rw [rx_xchg, rx_payloadStored]
  have h2 : (xchg fill (xchg fill (payloadStored n s))).rx 0 = s.rx (n + 2) := by rw [rx_xchg, rx_xchg, rx_payloadStored]
  calc (checksumRead (payloadStored n s)).trace
      = .xchg fill (s.rx (n + 2)) :: .deselect :: .xchg fill (s.rx (n + 1)) :: .xchg fill (s.rx n) ::
          (payloadStored n s).trace := by rw [← h2, ← h1, ← h0]; rfl
    _ = _ := by simp [exchanges, payloadStored]

/-- What the payload, the checksum and step 5 leave of a read in `BR_DATA`: `n + 3` exchanges, the stored bytes, `cs = 0`. -/
theorem checksumRead_payloadStored (n : Nat) (s : State) :
    checksumRead (payloadStored n s) =
      complete .ok { transmitted (List.replicate (n + 3) fill) s with
        cnt := 1, cs := false, line := false, buf := payloadBuf s n
        trace := (checksumRead (payloadStored n s)).trace } := by
  rw [transmitted_replicate_succ, transmitted_replicate_succ, transmitted_replicate_succ]
  rfl

/-- The read in `BR_DATA`, its start token received after `k1` filler bytes, a zero status and `k2` not-ready bytes (R134). -/
def payloadStart (addr : Word) (k1 k2 : Nat) (s : State) : State :=
  { reading addr (k1 + 1 + k2 + 1) s with poll := k2 + 1, status := 0x00, token := 0xFE, cnt := 0, phase := .brData }

theorem rx_payloadStart (addr : Word) (k1 k2 j : Nat) (s : State) :
    (payloadStart addr k1 k2 s).rx j = s.rx (8 + k1 + k2 + j) :=
  (rx_reading addr (k1 + 1 + k2 + 1) j s).trans (congrArg s.rx (by omega))

theorem transmitted_payloadStart (addr : Word) (k1 k2 n : Nat) (s : State) :
    transmitted (List.replicate n fill) (payloadStart addr k1 k2 s) =
      { reading addr (k1 + 1 + k2 + 1 + n) s with
        poll := k2 + 1, status := 0x00, token := 0xFE, cnt := 0, phase := .brData } :=
  congrArg (fun t : State => { t with poll := k2 + 1, status := 0x00, token := 0xFE, cnt := 0, phase := .brData })
    (transmitted_reading addr (k1 + 1 + k2 + 1) n s)

theorem exchanges_payloadStart (addr : Word) (k1 k2 j : Nat) (txs : List Byte) (s : State) :
    exchanges (payloadStart addr k1 k2 s) j txs = exchanges s (8 + k1 + k2 + j) txs := by
  simp [exchanges, rx_payloadStart, Nat.add_assoc]

theorem storeCalls_payloadStart (addr : Word) (k1 k2 : Nat) (s : State) :
    storeCalls (payloadStart addr k1 k2 s) blockLen = payloadCalls s (8 + k1 + k2) := by
  simp only [storeCalls, payloadCalls, rx_payloadStart]

/-- Settles O15: the two polls, the row of the start token, then payload, checksum and step 5. -/
theorem rdblkReadsBlock : Obligations.RdblkReadsBlock := by
  intro addr k1 k2 s hr hp hcs hwf hfill hzero hlim1 hwait hstart hlim2 f d accepted
  have hlimit := limitReached_of_within hlim2
  have hpolls : run (7 + k1 + 1 + k2) accepted = .next (tokenWait addr k1 k2 s) :=
    run_tokenWait hr addr hfill hzero hlim1 hwait fun j hj => hlimit j hj.le
  have hrow : step (tokenWait addr k1 k2 s) = .next (payloadStart addr k1 k2 s) := by
    rw [step_brToken_start (s := tokenWait addr k1 k2 s) hr rfl (hlimit k2 le_rfl) ((rx_tokenWait addr k1 k2 0 s).trans hstart),
      payloadStart, ← xchg_reading]
    rfl
  have hblock := run_blockRead (s := payloadStart addr k1 k2 s) hr rfl rfl
  have hcard : d + 515 = k1 + k2 + 517 + 6 := by omega
  have hlength : k1 + 1 + k2 + 1 + (blockLen + 3) = k1 + k2 + 517 := by rw [blockLen]; omega
  refine ⟨exec_rdblk_of_idle hp hcs addr, payloadBuf (payloadStart addr k1 k2 s) blockLen, fun i => ?_, ?_⟩
  · rw [read_payloadBuf (s := payloadStart addr k1 k2 s) hwf i le_rfl, rx_payloadStart]
    rfl
  · rw [show d + 517 = 7 + k1 + 1 + k2 + (516 + 1) by omega, run_add hpolls, run_succ hrow, hblock,
      checksumRead_payloadStored, checksumRead_payloadStored_trace, storeCalls_payloadStart, exchanges_payloadStart,
      exchanges_payloadStart, transmitted_payloadStart, hlength, hp, hcard]
    simp only [complete, payloadStart, reading, rdblkAccepted, List.reverse_append, List.append_assoc, blockLen, f, d]

/-! ### Every completion of a read (R139) -/

/-- An RDBLK completes by its trailing exchange only (R138). -/
theorem RowMove.phase_of_rdblk_completed {s t : State} (h : RowMove s t) (hs : Inv s) (hcur : s.cur = .rdblk)
    (hidle : t.phase = .idle) : s.phase = .brTrail := by
  cases h
  case brTrailOk hp _ | brTrailFailed hp _ => exact hp
  case cfTxSend hsend => exact absurd (hcur.symm.trans hsend) (by decide)
  case rrSkipTimeout hp | rrSkipOnly hp _ | rrRestLast hp _ =>
    obtain ⟨⟨hresp, -⟩, -⟩ := hs.fitsAt hp
    exact absurd (hcur.symm.trans hresp) (by decide)
  case rlTrail hp | puClkLast hp =>
    obtain ⟨hother, -⟩ := hs.fitsAt hp
    exact absurd (hcur.symm.trans hother) (by decide)
  all_goals simp [*] at hidle

/-- Settles O33: a read completes in `BR_TRAIL`, where the invariant ties the kind to `STATUS`, `TOKEN` and the buffer. -/
theorem rdblkCompletionMatchesTable : Obligations.RdblkCompletionMatchesTable := by
  intro s t hs hr hcur h hidle
  have hbusy : s.phase ≠ .idle := fun hp => absurd (hcur.symm.trans (hs.fitsAt hp)) (by decide)
  have hp : s.phase = .brTrail := (rowMove_of_step hr hbusy h).phase_of_rdblk_completed hs hcur hidle
  obtain ⟨-, hcs, hout⟩ := hs.fitsAt hp
  have hout : rdblkOutcome s.kind s := hout
  rw [step_brTrail hr hp] at h
  rcases brTrail_cases h with ⟨hk, rfl⟩ | ⟨hk, rfl⟩
  · rw [hk] at hout
    obtain ⟨hstatus, htoken, hbuf⟩ := hout
    exact ⟨hcs, .inl ⟨rfl, hstatus, htoken, hbuf⟩⟩
  · refine ⟨hcs, .inr ⟨?_, fun i hi => hostMemRead_undefined rfl rfl hi⟩⟩
    cases hkind : s.kind with
    | ok => exact absurd hkind hk
    | operationFailed => rw [hkind] at hout; exact .inl ⟨rfl, hout⟩
    | tokenError => rw [hkind] at hout; exact .inr (.inl ⟨rfl, hout⟩)
    | timeout => rw [hkind] at hout; exact .inr (.inr ⟨rfl, hout⟩)
    | illegalOp | protocolViolation => rw [hkind] at hout; exact hout.elim

end Sys2Proof.Machine

/-! PROOFS. The bus-control operations: the acceptance and the run of RELEASE and of PWRUP (spec/44_bus_control_ops.md R150 to
R152). -/

namespace Sys2Proof.Machine

/-! ### RELEASE -/

theorem exec_release_of_idle {s : State} (hp : s.phase = .idle) :
    exec .release s = .next { s with cur := .release, phase := .rlDesel } := by
  rw [exec, execRelease, accept_of_idle hp]

/-- Rows `RL_DESEL` and `RL_TRAIL` (R150). -/
theorem run_release {s : State} (hr : s.rst = false) (hp : s.phase = .rlDesel) :
    run 2 s = .next (complete .ok (xchg fill (deselect s))) := by
  have hdesel : step s = .next { deselect s with phase := .rlTrail } := step_rlDesel hr hp
  have htrail : step { deselect s with phase := .rlTrail } = .next (complete .ok (xchg fill (deselect s))) :=
    step_rlTrail (by exact hr) rfl
  rw [run_succ hdesel, run_one htrail]

/-- Settles O19: acceptance has no precondition, then the two rows. -/
theorem releaseEndsCycle : Obligations.ReleaseEndsCycle := by
  intro s hr hp accepted
  refine ⟨exec_release_of_idle hp, (run_release (s := accepted) hr rfl).trans (congrArg Host.Outcome.next ?_)⟩
  rw [hp, List.drop_one]
  rfl

/-! ### PWRUP -/

theorem exec_pwrup_of_idle {s : State} (hp : s.phase = .idle) :
    exec .pwrup s = .next { s with cur := .pwrup, phase := .puDesel } := by
  rw [exec, execPwrup, accept_of_idle hp]

/-- The state in `PU_CLK` when a PWRUP that was about to deselect in `s` has made `m` exchanges (R152). -/
def clocked (m : Nat) (s : State) : State :=
  { transmitted (List.replicate m fill) (deselect s) with cnt := BitVec.ofNat 10 m, phase := .puClk }

theorem clocked_zero (s : State) : clocked 0 s = { deselect s with cnt := 0, phase := .puClk } := by
  rw [clocked, List.replicate_zero, transmitted_nil]
  rfl

theorem clocked_succ (m : Nat) (s : State) :
    clocked (m + 1) s = { xchg fill (clocked m s) with cnt := BitVec.ofNat 10 (m + 1) } := by
  rw [clocked, transmitted_replicate_succ]
  rfl

/-- What a PWRUP that was about to deselect in `s` leaves after its `m + 1` exchanges: `cnt` is not advanced by the last one. -/
theorem complete_xchg_clocked (m : Nat) (s : State) :
    complete .ok (xchg fill (clocked m s)) =
      complete .ok { transmitted (List.replicate (m + 1) fill) (deselect s) with cnt := BitVec.ofNat 10 m } := by
  rw [transmitted_replicate_succ]
  rfl

section
variable {s : State} {m : Nat} (hr : s.rst = false) (hm : m < 512)
include hr hm

/-- Row `PU_CLK` (R152): `cnt` counts the exchanges made, as long as it can hold their number (R26). -/
theorem step_clocked :
    step (clocked m s) = .next (
      if m = s.cfg.powerupExchanges - 1 then complete .ok (xchg fill (clocked m s)) else clocked (m + 1) s) := by
  have hcnt : (clocked m s).cnt.toNat = m := BitVec.toNat_ofNat m 10 ▸ Nat.mod_eq_of_lt (hm.trans (by decide))
  have hnext : (clocked m s).cnt + 1 = BitVec.ofNat 10 (m + 1) := (BitVec.ofNat_add m 1).symm
  have hcfg : (clocked m s).cfg = s.cfg := rfl
  rw [step_puClk (s := clocked m s) hr rfl, puClk, clocked_succ]
  simp only [hcnt, hnext, hcfg]
  split <;> rfl

/-- All the exchanges but the last one. -/
theorem run_clocked (hlt : m < s.cfg.powerupExchanges) : run m (clocked 0 s) = .next (clocked m s) := by
  induction m with
  | zero => rfl
  | succ m ih =>
    have hm' : m < 512 := Nat.lt_of_succ_lt hm
    rw [run_add (ih hm' (Nat.lt_of_succ_lt hlt)), run_one (step_clocked hr hm'), if_neg (by omega)]

/-- Rows `PU_DESEL` and `PU_CLK` (R152). -/
theorem run_pwrup (hp : s.phase = .puDesel) (hn : s.cfg.powerupExchanges = m + 1) :
    run (m + 1 + 1) s =
      .next (complete .ok { transmitted (List.replicate (m + 1) fill) (deselect s) with cnt := BitVec.ofNat 10 m }) := by
  have hdesel : step s = .next (clocked 0 s) := by rw [step_puDesel hr hp, puDesel, clocked_zero]
  have hlast : step (clocked m s) = .next (complete .ok (xchg fill (clocked m s))) := by
    rw [step_clocked hr hm, if_pos (by omega)]
  rw [run_succ hdesel, run_add (run_clocked hr hm (by omega)), run_one hlast, complete_xchg_clocked]

end

/-- Settles O20: acceptance has no precondition, then the rows; a well-formed configuration asks for 1 to 512 exchanges, which
`cnt` can count. The exchanges after `Deselect()` are those of `s`, since acceptance and `Deselect()` move neither `card` nor
`xchgs`. -/
theorem pwrupClocksIdleBus : Obligations.PwrupClocksIdleBus := by
  intro s hr hp hwf n accepted
  obtain ⟨hlow, hhigh⟩ := powerupExchanges_range hwf
  have hn : n = n - 1 + 1 := (Nat.sub_add_cancel hlow).symm
  have hrun := run_pwrup (s := accepted) (m := n - 1) hr (by omega) rfl hn
  rw [← hn] at hrun
  refine ⟨exec_pwrup_of_idle hp, hrun.trans (congrArg Host.Outcome.next ?_)⟩
  rw [hp, transmitted, List.length_replicate]
  rfl

end Sys2Proof.Machine

/-! PROOFS. What a step of the host does (spec/45_init_sequencer.md R160 to R178): one equation for each position of a host program,
and the decisions of the Initialization Sequencer on a response. -/

namespace Sys2Proof.Machine

section
variable {s : State} {st : SeqState} {c : CmdStep}

/-! ### The host's step by the position of its program -/

theorem hostStep_of_free (hp : s.prog = .free) : hostStep s = takeCall s := by simp only [hostStep, hp]

theorem hostStep_of_init (hp : s.prog = .init st c) : hostStep s = initStep st c s := by simp only [hostStep, hp]

theorem hostStep_of_readWait (hp : s.prog = .readWait) : hostStep s = readFinish s := by simp only [hostStep, hp]

theorem takeCall_of_init {rest : List HostCall} (hc : s.calls = .init :: rest) :
    takeCall s = initStart { s with calls := rest } := by simp only [takeCall, hc]

theorem takeCall_of_read {addr : Word} {rest : List HostCall} (hc : s.calls = .read addr :: rest) :
    takeCall s = readStart addr { s with calls := rest } := by simp only [takeCall, hc]

/-- The loop's bound is tested before CMD55 and before no other command (R173). -/
theorem initStep_send_of_within (hl : st = .opCondPrefix → limitReached s.cfg.opcondLimit s.iter = false) :
    initStep st .send s =
      present (.send (seqCommand s.cfg.hcsArg st).1 (seqCommand s.cfg.hcsArg st).2.1) (.init st .resp) s :=
  if_neg fun ⟨hst, hlim⟩ => by simp [hl hst] at hlim

theorem initStep_send_of_limit (hl : limitReached s.cfg.opcondLimit s.iter = true) :
    initStep .opCondPrefix .send s = initFail .timeout s := if_pos ⟨rfl, hl⟩

/-! ### The decision on a response, state by state -/

theorem initCheck_of_timeout (hk : s.respKind = .timeout) : initCheck st s = initFail .timeout s := if_pos hk

section
variable (hk : s.respKind ≠ .timeout)
include hk

theorem initCheck_reset :
    initCheck .reset s = if s.resp[0] ≠ 0x01 then initFail .notIdle s else initGo .interfaceCheck .idleConfirmed s :=
  if_neg hk

theorem initCheck_interfaceCheck :
    initCheck .interfaceCheck s =
      if s.resp[0] ≠ 0x01 then initFail .notIdle s
      else if s.resp[3].extractLsb' 0 4 ≠ 0x1 then initFail .unsupportedVoltage s
      else if s.resp[4] ≠ 0xAA then initFail .checkPatternMismatch s
      else initGo .capabilitiesProbe .interfaceConfirmed s :=
  if_neg hk

theorem initCheck_capabilitiesProbe :
    initCheck .capabilitiesProbe s = initGo .opCondPrefix .opCondPending { s with iter := 0 } := if_neg hk

theorem initCheck_opCondPrefix : initCheck .opCondPrefix s = initGo .opCondQuery s.session s := if_neg hk

theorem initCheck_opCondQuery :
    initCheck .opCondQuery s =
      if s.resp[0].getLsbD 0 then initGo .opCondPrefix s.session { s with iter := s.iter + 1 }
      else initGo .capacityModeQuery s.session { s with iter := s.iter + 1 } :=
  if_neg hk

theorem initCheck_capacityModeQuery :
    initCheck .capacityModeQuery s = initDone (if s.resp[1].getLsbD 6 then .highCapacity else .standard) s := if_neg hk

end

/-- Every decision fails the attempt, goes on to a state with the session that state works in, or ends with the session Ready
(R162 to R169). -/
theorem initCheck_cases (hs : s.session = sessionIn st) :
    (∃ r, initCheck st s = initFail r s) ∨
      (∃ st' n, initCheck st s = initGo st' (sessionIn st') { s with iter := n }) ∨
      ∃ mode, initCheck st s = initDone mode s := by
  by_cases hk : s.respKind = .timeout
  · exact .inl ⟨_, initCheck_of_timeout hk⟩
  cases st with
  | reset =>
    rw [initCheck_reset hk]
    split
    · exact .inl ⟨_, rfl⟩
    · exact .inr (.inl ⟨.interfaceCheck, s.iter, rfl⟩)
  | interfaceCheck =>
    rw [initCheck_interfaceCheck hk]
    split
    · exact .inl ⟨_, rfl⟩
    · split
      · exact .inl ⟨_, rfl⟩
      · split
        · exact .inl ⟨_, rfl⟩
        · exact .inr (.inl ⟨.capabilitiesProbe, s.iter, rfl⟩)
  | capabilitiesProbe => exact .inr (.inl ⟨.opCondPrefix, 0, initCheck_capabilitiesProbe hk⟩)
  | opCondPrefix => exact .inr (.inl ⟨.opCondQuery, s.iter, by rw [initCheck_opCondPrefix hk, hs]; rfl⟩)
  | opCondQuery =>
    rw [initCheck_opCondQuery hk, hs]
    split
    · exact .inr (.inl ⟨.opCondPrefix, _, rfl⟩)
    · exact .inr (.inl ⟨.capacityModeQuery, _, rfl⟩)
  | capacityModeQuery => exact .inr (.inr ⟨_, initCheck_capacityModeQuery hk⟩)

end

/-! ### Block and host leave each other's state alone -/

/-- Settles O44: a step with the block idle and nothing presented is the host's. -/
theorem hostStepLeavesBlockAlone : Obligations.HostStepLeavesBlockAlone := by
  intro s t hr hp hq h
  rw [step_of_no_request hr hp hq] at h
  cases h
  exact hostStep_sameBlock s

/-- `t` has the host's own fields of `s` (R161, R170, R176). -/
def SameHost (s t : State) : Prop :=
  t.session = s.session ∧ t.prog = s.prog ∧ t.iter = s.iter ∧ t.hostResult = s.hostResult ∧ t.respKind = s.respKind ∧
    t.calls = s.calls

/-- The rows of the phase table write no field of the host (R143). -/
theorem RowMove.sameHost {s t : State} (h : RowMove s t) : SameHost s t := by
  cases h <;> exact ⟨rfl, rfl, rfl, rfl, rfl, rfl⟩

/-- A running operation leaves the port as it is (R40). -/
theorem RowMove.req {s t : State} (h : RowMove s t) : t.req = s.req := by cases h <;> rfl

/-- Acceptance writes no field of the host (R30, R143). -/
theorem exec_sameHost {i : Instr} {s t : State} (h : exec i s = .next t) : SameHost s t := by
  rcases exec_cases h with ⟨-, rfl⟩ | ⟨-, rfl⟩ | ⟨-, hstart⟩
  · exact ⟨rfl, rfl, rfl, rfl, rfl, rfl⟩
  · exact ⟨rfl, rfl, rfl, rfl, rfl, rfl⟩
  · rcases hstart with ⟨_, _, -, -, rfl⟩ | ⟨_, -, -, rfl⟩ | ⟨_, -, -, rfl⟩ | ⟨-, rfl⟩ | ⟨-, rfl⟩ <;>
      exact ⟨rfl, rfl, rfl, rfl, rfl, rfl⟩

/-- Settles O45: the rows, an accepted operation and a refused word leave the host's fields. -/
theorem blockStepLeavesHostAlone : Obligations.BlockStepLeavesHostAlone := by
  intro s t hr hbusy h
  rcases step_cases h with ⟨hr', -⟩ | ⟨-, hp, hrow⟩ | ⟨-, -, w, -, i, -, hexec⟩ | ⟨-, -, w, -, -, rfl⟩ | ⟨-, hp, hq, -⟩
  · simp [hr] at hr'
  · exact (rowMove_of_phaseStep hp hrow).sameHost
  · exact exec_sameHost (s := takeReq s) hexec
  · exact ⟨rfl, rfl, rfl, rfl, rfl, rfl⟩
  · exact absurd hbusy (by simp [hp, hq])

end Sys2Proof.Machine

/-! PROOFS. The decisions of `INIT` and `READ` (spec/45_init_sequencer.md R163 to R176), each the host's step at one position of its
program. -/

namespace Sys2Proof.Machine

section
variable {s : State} (hr : s.rst = false) (hp : s.phase = .idle) (hq : s.req = none)
include hr hp hq

theorem step_of_init {st : SeqState} {c : CmdStep} (hprog : s.prog = .init st c) : step s = .next (initStep st c s) := by
  rw [step_of_no_request hr hp hq, hostStep_of_init hprog]

theorem step_of_initCheck {st : SeqState} (hprog : s.prog = .init st .check) : step s = .next (initCheck st s) :=
  step_of_init hr hp hq hprog

theorem step_of_free (hprog : s.prog = .free) : step s = .next (takeCall s) := by
  rw [step_of_no_request hr hp hq, hostStep_of_free hprog]

theorem step_of_readWait (hprog : s.prog = .readWait) : step s = .next (readFinish s) := by
  rw [step_of_no_request hr hp hq, hostStep_of_readWait hprog]

end

theorem ne_timeout_of_ok {k : Kind} (h : k = .ok) : k ≠ .timeout := by simp [h]

/-- Settles O38: each position but the decision presents one operation, which for each state is that of R164 to R168. -/
theorem initIssuesItsCommands : Obligations.InitIssuesItsCommands := by
  intro s hr hp hq
  refine ⟨fun rest hprog hcalls => ?_, fun st hprog hlim => ?_, fun st hprog => ?_, fun st hprog => ?_⟩
  · rw [step_of_free hr hp hq hprog, takeCall_of_init hcalls]
    rfl
  · rw [step_of_init hr hp hq hprog, initStep_send_of_within hlim]
    cases st <;> rfl
  · rw [step_of_init hr hp hq hprog]
    cases st <;> rfl
  · exact step_of_init hr hp hq hprog

/-- Settles O39: the equations of the two states, branch by branch. -/
theorem initChecksIdleVoltageAndPattern : Obligations.InitChecksIdleVoltageAndPattern := by
  intro s hr hp hq hk failed
  refine ⟨fun hprog => ?_, fun hprog => ?_⟩
  · rw [step_of_initCheck hr hp hq hprog, initCheck_reset (ne_timeout_of_ok hk)]
    refine ⟨fun h0 => ?_, fun h0 => ?_⟩
    · rw [if_pos h0]; rfl
    · rw [if_neg (not_not_intro h0)]; rfl
  · rw [step_of_initCheck hr hp hq hprog, initCheck_interfaceCheck (ne_timeout_of_ok hk)]
    refine ⟨fun h0 => ?_, fun h0 h3 => ?_, fun h0 h3 h4 => ?_, fun h0 h3 h4 => ?_⟩
    · rw [if_pos h0]; rfl
    · rw [if_neg (not_not_intro h0), if_pos h3]; rfl
    · rw [if_neg (not_not_intro h0), if_neg (not_not_intro h3), if_pos h4]; rfl
    · rw [if_neg (not_not_intro h0), if_neg (not_not_intro h3), if_neg (not_not_intro h4)]; rfl

/-- Settles O40: the equations of the three states, and the bound tested before CMD55. -/
theorem operatingConditionLoop : Obligations.OperatingConditionLoop := by
  intro s hr hp hq
  refine ⟨fun hk => ⟨fun hprog => ?_, fun hprog => ?_, fun hprog => ?_⟩, fun n hprog hlim hiter => ?_, fun hprog hlim => ?_⟩
  · rw [step_of_initCheck hr hp hq hprog, initCheck_capabilitiesProbe (ne_timeout_of_ok hk)]
    rfl
  · rw [step_of_initCheck hr hp hq hprog, initCheck_opCondPrefix (ne_timeout_of_ok hk)]
    rfl
  · rw [step_of_initCheck hr hp hq hprog, initCheck_opCondQuery (ne_timeout_of_ok hk)]
    exact ⟨fun h0 => by rw [h0]; rfl, fun h0 => by rw [h0]; rfl⟩
  · rw [step_of_init hr hp hq hprog, initStep_send_of_limit (by simp [limitReached, hlim, hiter])]
    rfl
  · rw [step_of_init hr hp hq hprog, initStep_send_of_within (fun _ => by simp [limitReached, hlim])]
    rfl

/-- Settles O41: the mode that `initDone` is given. -/
theorem capacityModeDecidesReady : Obligations.CapacityModeDecidesReady := by
  intro s hr hp hq hk hprog
  rw [step_of_initCheck hr hp hq hprog, initCheck_capacityModeQuery (ne_timeout_of_ok hk)]
  exact ⟨fun h6 => by rw [h6]; rfl, fun h6 => by rw [h6]; rfl⟩

/-- Settles O42: `chk` comes before the decision of every state. -/
theorem respTimeoutFailsInit : Obligations.RespTimeoutFailsInit := by
  intro s st hr hp hq hk hprog
  rw [step_of_initCheck hr hp hq hprog, initCheck_of_timeout hk]
  rfl

/-- Settles O43: the call is gated by the session, the return reads the status byte. -/
theorem readIsGatedBySession : Obligations.ReadIsGatedBySession := by
  intro s hr hp hq
  refine ⟨fun addr rest hprog hcalls => ?_, fun hprog => ?_⟩
  · rw [step_of_free hr hp hq hprog, takeCall_of_read hcalls]
    exact ⟨fun hready => by simp [readStart, hready], fun hready => by simp [readStart, hready, present]⟩
  · rw [step_of_readWait hr hp hq hprog]
    exact ⟨fun hstatus => by rw [readFinish, if_pos hstatus], fun hstatus => by rw [readFinish, if_neg hstatus]⟩

end Sys2Proof.Machine

/-! PROOFS. The invariant of the host program (spec/45_init_sequencer.md R161 to R176): how each operation starts and ends, and that every
step keeps the relation between the sequencer's position, its session, the port, `cs` and `KIND`. -/

namespace Sys2Proof.Machine

/-- Settles O35: after reset no host program runs and the session is `NotInitialized`. -/
theorem hostInvariantAtReset : Obligations.HostInvariantAtReset := .inl rfl

/-! ### How an operation starts and ends -/

/-- The chip-select precondition of an operation is met (R30, R111, R121). -/
def CsAdmits : Instr → Bool → Prop
  | .send _ _, cs | .rdblk _, cs => cs = false
  | .resp1, cs | .resp2, cs | .resp5, cs => cs = true
  | .release, _ | .pwrup, _ => True

theorem csAdmits_respOf (l : RespLen) : CsAdmits (respOf l) true := by cases l <;> rfl

/-- Acceptance of an operation whose precondition is met starts it and presents no result (R30). -/
theorem exec_starts {i : Instr} {s t : State} (hp : s.phase = .idle) (hcs : CsAdmits i s.cs) (h : exec i s = .next t) :
    t.phase ≠ .idle ∧ t.cur = curOf i ∧ t.req = s.req ∧ t.cs = s.cs ∧ t.results = s.results := by
  cases i with
  | send idx arg => cases (exec_send_of_idle hp hcs idx arg).symm.trans h; exact ⟨nofun, rfl, rfl, rfl, rfl⟩
  | resp1 => cases (exec_respOf_of_idle hp hcs .one).symm.trans h; exact ⟨nofun, rfl, rfl, rfl, rfl⟩
  | resp2 => cases (exec_respOf_of_idle hp hcs .two).symm.trans h; exact ⟨nofun, rfl, rfl, rfl, rfl⟩
  | resp5 => cases (exec_respOf_of_idle hp hcs .five).symm.trans h; exact ⟨nofun, rfl, rfl, rfl, rfl⟩
  | rdblk addr => cases (exec_rdblk_of_idle hp hcs addr).symm.trans h; exact ⟨nofun, rfl, rfl, rfl, rfl⟩
  | release => cases (exec_release_of_idle hp).symm.trans h; exact ⟨nofun, rfl, rfl, rfl, rfl⟩
  | pwrup => cases (exec_pwrup_of_idle hp).symm.trans h; exact ⟨nofun, rfl, rfl, rfl, rfl⟩

/-- `cs` and `KIND` right after each operation's completion (R114, R124, R126, R139, R150, R152). -/
def EndsAs : Cur → State → Prop
  | .none, _ => False
  | .send, t => t.cs = true ∧ t.kind = .ok
  | .resp, t => t.cs = true ∧ (t.kind = .ok ∨ t.kind = .timeout)
  | .rdblk, t => t.cs = false ∧ t.kind ≠ .illegalOp ∧ t.kind ≠ .protocolViolation
  | .release, t | .pwrup, t => t.cs = false ∧ t.kind = .ok

/-- No operation that was accepted ends in a refusal (R193). -/
theorem EndsAs.kind_ne_refusal {c : Cur} {t : State} (h : EndsAs c t) : t.kind ≠ .illegalOp ∧ t.kind ≠ .protocolViolation := by
  cases c with
  | none => exact h.elim
  | rdblk => exact h.2
  | resp => obtain ⟨-, hk | hk⟩ := h <;> simp [hk]
  | send | release | pwrup => obtain ⟨-, hk⟩ := h; simp [hk]

theorem rdblkOutcome.kind_ne_refusal {k : Kind} {s : State} (h : rdblkOutcome k s) : k ≠ .illegalOp ∧ k ≠ .protocolViolation := by
  cases k with
  | illegalOp | protocolViolation => exact h.elim
  | ok | operationFailed | tokenError | timeout => exact ⟨nofun, nofun⟩

section
variable {s t : State}

/-- A transition that ends an operation ends it as that operation does. -/
theorem RowMove.endsAs (h : RowMove s t) (hs : Inv s) (hidle : t.phase = .idle) : EndsAs s.cur t := by
  cases h
  case cfTxSend hp tx hcur =>
    obtain ⟨-, hcs, -⟩ := hs.fitsAt hp
    rw [hcur]; exact ⟨hcs, rfl⟩
  case rrSkipTimeout hp =>
    obtain ⟨⟨hcur, hcs, -⟩, -⟩ := hs.fitsAt hp
    rw [hcur]; exact ⟨hcs, .inr rfl⟩
  case rrSkipOnly hp _ =>
    obtain ⟨⟨hcur, hcs, -⟩, -⟩ := hs.fitsAt hp
    rw [hcur]; exact ⟨hcs, .inl rfl⟩
  case rrRestLast hp _ =>
    obtain ⟨⟨hcur, hcs, -⟩, -⟩ := hs.fitsAt hp
    rw [hcur]; exact ⟨hcs, .inl rfl⟩
  case brTrailOk hp _ =>
    obtain ⟨hcur, hcs, -⟩ := hs.fitsAt hp
    rw [hcur]; exact ⟨hcs, nofun, nofun⟩
  case brTrailFailed hp _ =>
    obtain ⟨hcur, hcs, hout⟩ := hs.fitsAt hp
    rw [hcur]; exact ⟨hcs, hout.kind_ne_refusal⟩
  case rlTrail hp =>
    obtain ⟨hcur, hcs⟩ := hs.fitsAt hp
    rw [hcur]; exact ⟨hcs, rfl⟩
  case puClkLast hp =>
    obtain ⟨hcur, hcs, -⟩ := hs.fitsAt hp
    rw [hcur]; exact ⟨hcs, rfl⟩
  all_goals exact absurd hidle (by simp [*])

/-- While a RESP runs `cs = 1` (R121). -/
theorem Inv.cs_of_resp (hs : Inv s) (hcur : s.cur = .resp) : s.cs = true := by
  cases hp : s.phase
  case rrSkip =>
    obtain ⟨⟨-, hcs, -⟩, -⟩ := hs.fitsAt hp
    exact hcs
  case rrRest =>
    obtain ⟨⟨-, hcs, -⟩, -⟩ := hs.fitsAt hp
    exact hcs
  all_goals
    have hfits := hs.fitsAt hp
    simp [phaseFits, rdblkFresh, hcur] at hfits

/-! ### The stages of a presented operation -/

variable {i : Instr}

/-- A waiting operation whose precondition is met starts. -/
theorem step_of_waiting (hr : s.rst = false) (hw : atStage i s .waiting) (hcs : CsAdmits i s.cs) (h : step s = .next t) :
    atStage i t .running ∧ t.cs = s.cs ∧ t.results = s.results := by
  obtain ⟨hq, hp⟩ := hw
  rw [stepAcceptsDecodedRequest s _ i hr hp hq (decodeOpw_encode i)] at h
  obtain ⟨hbusy, hcur, hreq, hcs', hres⟩ := exec_starts (s := takeReq s) hp hcs h
  exact ⟨⟨hreq, hbusy, hcur⟩, hcs', hres⟩

/-- A running operation runs on or ends. -/
theorem step_of_running (hs : Inv s) (hr : s.rst = false) (hrun : atStage i s .running) (h : step s = .next t) :
    atStage i t .running ∨ (atStage i t .completed ∧ EndsAs (curOf i) t) := by
  obtain ⟨hq, hbusy, hcur⟩ := hrun
  have hrow := rowMove_of_step hr hbusy h
  have hreq : t.req = none := hrow.req.trans hq
  rcases hrow.ends with ⟨hidle, -⟩ | ⟨hbusy', hcur', -⟩
  · exact .inr ⟨⟨hreq, hidle⟩, hcur ▸ hrow.endsAs hs hidle⟩
  · exact .inl ⟨hreq, hbusy', hcur'.trans hcur⟩

/-! ### `INIT` across a step -/

variable {st : SeqState} {c : CmdStep}

/-- What the host finds when it is to make this step of `INIT`, the operation before having completed (R175). -/
def ReadyFor : CmdStep → State → Prop
  | .send, s | .check, s => s.cs = false
  | .resp, s => s.cs = true
  | .release, s => s.cs = true ∧ (s.kind = .ok ∨ s.kind = .timeout)

/-- The operation before a step of `INIT` waits with its precondition met, runs, or has completed with what the step needs (R175). -/
theorem initFits.stages (hfit : initFits st s c) :
    ∃ i, (atStage i s .waiting ∧ CsAdmits i s.cs) ∨ atStage i s .running ∨ (atStage i s .completed ∧ ReadyFor c s) := by
  cases c with
  | send =>
    rcases hfit with ⟨-, hw | hrun⟩ | hdone
    · exact ⟨.pwrup, .inl ⟨hw, trivial⟩⟩
    · exact ⟨.pwrup, .inr (.inl hrun)⟩
    · exact ⟨.pwrup, .inr (.inr hdone)⟩
  | resp =>
    rcases hfit with hw | hrun | ⟨hdone, hcs, -⟩
    · exact ⟨_, .inl hw⟩
    · exact ⟨_, .inr (.inl hrun)⟩
    · exact ⟨_, .inr (.inr ⟨hdone, hcs⟩)⟩
  | release =>
    rcases hfit with ⟨hw, hcs⟩ | ⟨hrun, -⟩ | hdone
    · exact ⟨_, .inl ⟨hw, hcs ▸ csAdmits_respOf _⟩⟩
    · exact ⟨_, .inr (.inl hrun)⟩
    · exact ⟨_, .inr (.inr hdone)⟩
  | check =>
    rcases hfit with ⟨-, hw | hrun | ⟨hdone, hcs, -⟩⟩
    · exact ⟨.release, .inl ⟨hw, trivial⟩⟩
    · exact ⟨.release, .inr (.inl hrun)⟩
    · exact ⟨.release, .inr (.inr ⟨hdone, hcs⟩)⟩

theorem initFits.waiting_of_request (hfit : initFits st s c) (hp : s.phase = .idle) (hq : s.req ≠ none) :
    ∃ i, atStage i s .waiting ∧ CsAdmits i s.cs := by
  obtain ⟨i, hw | ⟨-, hbusy, -⟩ | ⟨⟨hreq, -⟩, -⟩⟩ := hfit.stages
  · exact ⟨i, hw⟩
  · exact absurd hp hbusy
  · exact absurd hreq hq

theorem initFits.ready_of_no_request (hfit : initFits st s c) (hp : s.phase = .idle) (hq : s.req = none) : ReadyFor c s := by
  obtain ⟨i, ⟨⟨hreq, -⟩, -⟩ | ⟨-, hbusy, -⟩ | ⟨-, hready⟩⟩ := hfit.stages
  · simp [hq] at hreq
  · exact absurd hp hbusy
  · exact hready

theorem curOf_respOf (l : RespLen) : curOf (respOf l) = .resp := by cases l <;> rfl

/-- A step of the block takes `INIT`'s operation from one stage to the next. -/
theorem initFits.blockStep (hfit : initFits st s c) (hs : Inv s) (hr : s.rst = false) (hmoves : s.phase ≠ .idle ∨ s.req ≠ none)
    (h : step s = .next t) : initFits st t c := by
  have notDone {i : Instr} : ¬ atStage i s .completed := fun ⟨hq, hp⟩ => by simp [hq, hp] at hmoves
  have hcfg : t.cfg = s.cfg := configurationIsFixed s t h
  cases c with
  | send =>
    rcases hfit with ⟨hst, hw | hrun⟩ | ⟨hdone, -⟩
    · exact .inl ⟨hst, .inr (step_of_waiting hr hw trivial h).1⟩
    · rcases step_of_running hs hr hrun h with hrun' | ⟨hdone, hcs, -⟩
      · exact .inl ⟨hst, .inr hrun'⟩
      · exact .inr ⟨hdone, hcs⟩
    · exact absurd hdone notDone
  | resp =>
    unfold initFits
    rw [hcfg]
    rcases hfit with ⟨hw, hcs⟩ | hrun | ⟨hdone, -⟩
    · exact .inr (.inl (step_of_waiting hr hw hcs h).1)
    · exact .inr (step_of_running hs hr hrun h)
    · exact absurd hdone notDone
  | release =>
    unfold initFits
    rw [hcfg]
    rcases hfit with ⟨hw, hcs⟩ | ⟨hrun, -⟩ | ⟨hdone, -⟩
    · obtain ⟨hrun', hcs', -⟩ := step_of_waiting hr hw (hcs ▸ csAdmits_respOf _) h
      exact .inr (.inl ⟨hrun', hcs'.trans hcs⟩)
    · rcases step_of_running hs hr hrun h with hrun' | ⟨hdone, hends⟩
      · have ⟨_, _, hcur⟩ := hrun'
        exact .inr (.inl ⟨hrun', (step_inv h hs).cs_of_resp (hcur.trans (curOf_respOf _))⟩)
      · rw [curOf_respOf] at hends
        exact .inr (.inr ⟨hdone, hends⟩)
    · exact absurd hdone notDone
  | check =>
    obtain ⟨hkind, hstage⟩ := hfit
    obtain ⟨-, -, -, -, hrespKind, -⟩ := blockStepLeavesHostAlone s t hr hmoves h
    refine ⟨hrespKind ▸ hkind, ?_⟩
    rcases hstage with hw | hrun | ⟨hdone, -⟩
    · exact .inr (.inl (step_of_waiting hr hw trivial h).1)
    · exact .inr (step_of_running hs hr hrun h)
    · exact absurd hdone notDone

end

/-! ### The invariant across a step -/

section
variable {s t : State}

/-! The invariant by the program that runs. -/

theorem hostInv_of_free (hprog : s.prog = .free) : HostInv s ↔ s.session = .notInitialized ∨ s.session.isReady = true := by
  simp only [HostInv, hprog]

theorem hostInv_of_init {st : SeqState} {c : CmdStep} (hprog : s.prog = .init st c) :
    HostInv s ↔ s.session = sessionIn st ∧ initFits st s c := by
  simp only [HostInv, hprog]

theorem hostInv_of_readWait (hprog : s.prog = .readWait) : HostInv s ↔ s.session.isReady = true := by
  simp only [HostInv, hprog]

section
variable (hp : s.phase = .idle)
include hp

/-- A step of `INIT` keeps the invariant: it fails, presents the next operation on the `cs` that one needs, or decides. -/
theorem initStep_hostInv {st : SeqState} {c : CmdStep} (hsession : s.session = sessionIn st) (hq : s.req = none)
    (hready : ReadyFor c s) : HostInv (initStep st c s) := by
  cases c with
  | send =>
    unfold initStep
    dsimp only
    split
    · exact .inl rfl
    · exact ⟨hsession, .inl ⟨⟨rfl, hp⟩, hready⟩⟩
  | resp => exact ⟨hsession, .inl ⟨⟨rfl, hp⟩, hready⟩⟩
  | release =>
    obtain ⟨-, hkind⟩ := hready
    exact ⟨hsession, hkind, .inl ⟨rfl, hp⟩⟩
  | check =>
    change HostInv (initCheck st s)
    rcases initCheck_cases hsession with ⟨r, hfail⟩ | ⟨st', n, hgo⟩ | ⟨mode, hdone⟩
    · rw [hfail]; exact .inl rfl
    · rw [hgo]; exact ⟨rfl, .inr ⟨⟨hq, hp⟩, hready⟩⟩
    · rw [hdone]; exact .inr rfl

/-- A call of the host's user keeps the invariant (R170, R176). -/
theorem takeCall_hostInv (hprog : s.prog = .free) (hs : HostInv s) : HostInv (takeCall s) := by
  have hsession := (hostInv_of_free hprog).1 hs
  unfold takeCall
  split
  · exact hs
  · exact (hostInv_of_free (by exact hprog)).2 hsession
  · exact ⟨rfl, .inl ⟨rfl, .inl ⟨rfl, hp⟩⟩⟩
  · unfold readStart
    split
    next hready => exact hready
    next => exact (hostInv_of_free (by exact hprog)).2 hsession

theorem hostStep_hostInv (hq : s.req = none) (hs : HostInv s) : HostInv (hostStep s) := by
  cases hprog : s.prog with
  | free => exact hostStep_of_free hprog ▸ takeCall_hostInv hp hprog hs
  | init st c =>
    obtain ⟨hsession, hfit⟩ := (hostInv_of_init hprog).1 hs
    exact hostStep_of_init hprog ▸ initStep_hostInv hp hsession hq (hfit.ready_of_no_request hp hq)
  | readWait => exact hostStep_of_readWait hprog ▸ .inr ((hostInv_of_readWait hprog).1 hs)

end

/-- A step of the block keeps the invariant: it leaves the host's fields, and `INIT`'s operation goes to its next stage. -/
theorem blockStep_hostInv (hs : HostInv s) (hinv : Inv s) (hr : s.rst = false) (hmoves : s.phase ≠ .idle ∨ s.req ≠ none)
    (h : step s = .next t) : HostInv t := by
  obtain ⟨hsession, hprog, -⟩ := blockStepLeavesHostAlone s t hr hmoves h
  cases hprog' : s.prog with
  | free => rw [hostInv_of_free (hprog.trans hprog'), hsession]; exact (hostInv_of_free hprog').1 hs
  | init st c =>
    obtain ⟨hst, hfit⟩ := (hostInv_of_init hprog').1 hs
    exact (hostInv_of_init (hprog.trans hprog')).2 ⟨hsession.trans hst, hfit.blockStep hinv hr hmoves h⟩
  | readWait => rw [hostInv_of_readWait (hprog.trans hprog'), hsession]; exact (hostInv_of_readWait hprog').1 hs

end

/-- Settles O36: a reset ends the program, a step of the block moves its operation on, and the host's own step starts from a completed
operation. -/
theorem hostInvariantKept : Obligations.HostInvariantKept := by
  intro s t hinv hs h
  cases hr : s.rst with
  | true =>
    rw [step_of_reset hr] at h
    cases h
    exact .inl rfl
  | false =>
    by_cases hmoves : s.phase ≠ .idle ∨ s.req ≠ none
    · exact blockStep_hostInv hs hinv hr hmoves h
    · obtain ⟨hp, hq⟩ : s.phase = .idle ∧ s.req = none := by simpa using hmoves
      rw [step_of_no_request hr hp hq] at h
      cases h
      exact hostStep_hostInv hp hq hs

/-- Settles O37: a running operation presents a result only where it ends, an operation of `INIT` is never refused at acceptance, and the host
presents none. -/
theorem initNeverBreaksDiscipline : Obligations.InitNeverBreaksDiscipline := by
  intro s t st c hinv hs hprog hr h
  obtain ⟨-, hfit⟩ := (hostInv_of_init hprog).1 hs
  by_cases hp : s.phase = .idle
  · by_cases hq : s.req = none
    · rw [step_of_no_request hr hp hq] at h
      cases h
      exact .inl (by rw [hostStep_sameBlock s])
    · obtain ⟨i, hw, hcs⟩ := hfit.waiting_of_request hp hq
      obtain ⟨-, -, hres⟩ := step_of_waiting hr hw hcs h
      exact .inl hres
  · have hrow := rowMove_of_step hr hp h
    rcases hrow.ends with ⟨hidle, -, hres, -⟩ | ⟨-, -, hres, -⟩
    · exact .inr ⟨_, hres, (hrow.endsAs hinv hidle).kind_ne_refusal⟩
    · exact .inl hres

end Sys2Proof.Machine

/-! PROOFS. The results and the ends of operations (spec/60_exceptions.md R190 to R205): the codes of the result kinds, the polls that
never end without a limit, and the bound on the steps of an operation with one. -/

namespace Sys2Proof.Machine

/-! ### The codes (R193, R194) -/

/-- The kind a code of R193 stands for. -/
def Kind.ofCode (c : BitVec 4) : Kind :=
  if c = 0 then .ok else if c = 1 then .operationFailed else if c = 2 then .tokenError else if c = 3 then .timeout
  else if c = 4 then .illegalOp else .protocolViolation

theorem Kind.ofCode_code (k : Kind) : Kind.ofCode k.code = k := by cases k <;> decide

theorem Kind.code_injective : Function.Injective Kind.code := Function.LeftInverse.injective Kind.ofCode_code

theorem Kind.code_lt_six (k : Kind) : k.code < 6 := by cases k <;> decide

/-- The host programs' result a code of R194 stands for; the status byte of `OperationFailed` is not in the code. -/
def HostResult.ofCode (statusByte : Byte) : Nat → HostResult
  | 0 => .ok
  | 1 => .operationFailed statusByte
  | 3 => .timeout
  | 8 => .notIdle
  | 9 => .unsupportedVoltage
  | 10 => .checkPatternMismatch
  | _ => .notReady

/-- A result is what its code stands for, with some status byte. -/
theorem HostResult.exists_ofCode_code (r : HostResult) : ∃ b, HostResult.ofCode b r.code = r := by
  cases r with
  | operationFailed b => exact ⟨b, rfl⟩
  | _ => exact ⟨0, rfl⟩

/-- The status byte matters to one code only. -/
theorem HostResult.ofCode_cases (a b : Byte) (c : Nat) :
    HostResult.ofCode a c = HostResult.ofCode b c ∨
      HostResult.ofCode a c = .operationFailed a ∧ HostResult.ofCode b c = .operationFailed b := by
  by_cases hc : c = 1
  · exact .inr (by rw [hc]; exact ⟨rfl, rfl⟩)
  · exact .inl (by unfold HostResult.ofCode; split <;> trivial)

theorem HostResult.eq_or_operationFailed_of_code {q r : HostResult} (h : q.code = r.code) :
    q = r ∨ ∃ a b, q = .operationFailed a ∧ r = .operationFailed b := by
  obtain ⟨a, ha⟩ := q.exists_ofCode_code
  obtain ⟨b, hb⟩ := r.exists_ofCode_code
  rw [← ha, ← hb, h]
  exact (HostResult.ofCode_cases a b r.code).imp_right fun hfailed => ⟨a, b, hfailed⟩

/-- Settles O52: each code by its definition; a code gives back its kind, and a host result up to the status byte. -/
theorem kindCodes : Obligations.KindCodes :=
  ⟨⟨rfl, rfl, rfl, rfl, rfl, rfl, fun _ _ h => Kind.code_injective h, Kind.code_lt_six⟩,
    ⟨rfl, fun _ => rfl, rfl, rfl, rfl, rfl, rfl, fun _ _ => HostResult.eq_or_operationFailed_of_code⟩⟩

/-! ### The polls without a limit (R205, R231) -/

theorem limitReached_of_inf {l : Limit} (hl : l = .inf) (j : Nat) : limitReached l j = false := by rw [hl]; rfl

theorem withinLimit_of_inf {l : Limit} (hl : l = .inf) (k : Nat) : withinLimit l k := by rw [hl]; trivial

/-- Settles O14: after acceptance the skip drops each filler byte, with no limit for it to reach. -/
theorem respHangsOnSilentCard : Obligations.RespHangsOnSilentCard := by
  intro l k s hr hp hcs hinf hfill accepted
  have hskip : run k accepted = .next (respSkipped k accepted) :=
    run_respSkipped hr rfl rfl hfill fun j _ => limitReached_of_inf hinf j
  exact ⟨exec_respOf_of_idle hp hcs l, _, hskip, rfl, rfl, rfl, rfl, rfl⟩

/-- Settles O53: after acceptance each poll drops the bytes it waits on, with no limit for it to reach. -/
theorem rdblkHangsOnSilentCard : Obligations.RdblkHangsOnSilentCard := by
  intro addr s hr hp hcs hinf f accepted
  have hlim (j : Nat) : limitReached s.cfg.pollLimit j = false := limitReached_of_inf hinf j
  refine ⟨exec_rdblk_of_idle hp hcs addr, fun k hfill => ?_, fun k1 k2 hfill hzero hwait => ?_⟩
  · exact ⟨statusWait addr k s, run_statusWait hr addr hfill fun j _ => hlim j, rfl, rfl, rfl, rfl, rfl, rfl, rfl, rfl⟩
  · have hrun := run_tokenWait hr addr hfill hzero (withinLimit_of_inf hinf k1) hwait fun j _ => hlim j
    rw [show 7 + k1 + 1 + k2 = 8 + k1 + k2 by omega] at hrun
    exact ⟨tokenWait addr k1 k2 s, hrun, rfl, rfl, rfl, rfl, rfl, rfl, rfl, rfl⟩

/-! ### The steps an operation has left, with a limit (R205) -/

/-- The most steps an operation in flight still takes when `POLL_LIMIT = n`: those of the longest way through the phase table (R28)
from its phase and counters on. A read spends 7 steps on its frame, `n` on each poll, 512 on the payload, 2 on the checksum bytes
and 2 on step 5 (R139). -/
def stepsLeft (n : Nat) (s : State) : Nat :=
  match s.phase with
  | .idle     => 0
  | .cfSel    => 2 * n + 523
  | .cfTx     => 2 * n + 522 - s.cnt.toNat
  | .rrSkip   => n + 5 - s.poll
  | .rrRest   => s.len.toNat - s.cnt.toNat
  | .brStatus => 2 * n + 516 - s.poll
  | .brToken  => n + 516 - s.poll
  | .brData   => 516 - s.cnt.toNat
  | .brCrc    => 4 - s.cnt.toNat
  | .brDesel  => 2
  | .brTrail  => 1
  | .rlDesel  => 2
  | .rlTrail  => 1
  | .puDesel  => s.cfg.powerupExchanges + 1
  | .puClk    => s.cfg.powerupExchanges - s.cnt.toNat

theorem stepsLeft_le (n : Nat) {s : State} (hs : Inv s) : stepsLeft n s ≤ 2 * n + 523 := by
  obtain ⟨-, hpwrup⟩ := powerupExchanges_range hs.cfgWf
  have hlen : s.len.toNat < 8 := s.len.isLt
  unfold stepsLeft
  split <;> omega

section
variable {s t : State} {n : Nat}

/-- With the invariant an operation in flight has at least one step left: its counter is below the end of its phase. -/
theorem stepsLeft_pos (hs : Inv s) (hbusy : s.phase ≠ .idle) (hlim : s.cfg.pollLimit = .upTo n) : 0 < stepsLeft n s := by
  have hcnt := hs.cntRange
  have hpoll : s.poll ≤ n := by simpa [hlim, pollInRange] using hs.pollRange
  cases hp : s.phase <;> simp only [stepsLeft, hp]
  case idle => exact absurd hp hbusy
  case rrRest =>
    obtain ⟨-, -, hlen, -⟩ := hs.fitsAt hp
    exact Nat.sub_pos_of_lt hlen
  case brCrc =>
    obtain ⟨-, -, -, -, hc, -⟩ := hs.fitsAt hp
    exact Nat.sub_pos_of_lt (Nat.lt_of_le_of_lt hc (by decide))
  case puClk =>
    obtain ⟨-, -, hlt⟩ := hs.fitsAt hp
    exact Nat.sub_pos_of_lt hlt
  all_goals omega

variable (hr : s.rst = false) (h : step s = .next t)
include hr h

/-- The status poll goes on to the token wait only short of its bound: the timeout check comes first (R28). -/
theorem limitReached_of_status_to_token (hp : s.phase = .brStatus) (ht : t.phase = .brToken) :
    limitReached s.cfg.pollLimit s.poll = false := by
  rw [step_brStatus hr hp] at h
  rcases brStatus_cases h with ⟨-, rfl⟩ | ⟨hl, -⟩ | ⟨hl, -⟩ | ⟨hl, -⟩
  · exact absurd ht (by simp)
  all_goals exact hl

/-- Only the first of the two checksum exchanges stays in `BR_CRC` (R136). -/
theorem cnt_of_stays_brCrc (hp : s.phase = .brCrc) (ht : t.phase = .brCrc) : s.cnt = 0 := by
  rw [step_brCrc hr hp] at h
  rcases brCrc_cases h with ⟨hc, -⟩ | ⟨-, rfl⟩
  · exact hc
  · exact absurd ht (by simp)

/-- Every step of an operation in flight leaves it fewer: completion leaves none, the counter of a phase moves on, and the way from the
next phase is shorter. -/
theorem stepsLeft_lt (hs : Inv s) (hbusy : s.phase ≠ .idle) (hlim : s.cfg.pollLimit = .upTo n) :
    stepsLeft n t < stepsLeft n s := by
  have hcnt := hs.cntRange
  have hsucc : (s.cnt + 1).toNat = s.cnt.toNat + 1 := cnt_succ hcnt
  have hpoll : s.poll ≤ n := by simpa [hlim, pollInRange] using hs.pollRange
  have hshort (hl : limitReached s.cfg.pollLimit s.poll = false) : s.poll < n :=
    lt_of_le_of_ne hpoll (by simpa [hlim, limitReached] using hl)
  cases rowMove_of_step hr hbusy h
  case cfTxSend | rrSkipTimeout | rrSkipOnly | rrRestLast | brTrailOk | brTrailFailed | rlTrail | puClkLast =>
    exact stepsLeft_pos hs hbusy hlim
  case cfTxByte hp _ hlt | brDataNext hp hlt _ | rrSkipFiller hp _ | brStatusFiller hp _ | brTokenNotReady hp _ =>
    simp only [stepsLeft, xchg_phase, memWrite_phase, hp]
    omega
  case cfSel hp | brStatusTimeout hp | brStatusError hp _ _ _ | brTokenTimeout hp | brTokenError hp _ _ _ | brDataLast hp _
      | brDesel hp | rlDesel hp | puDesel hp =>
    simp only [stepsLeft, hp, BitVec.ofNat_eq_ofNat, BitVec.toNat_zero, deselect_cfg]
    omega
  case cfTxRdblk hp _ _ =>
    obtain ⟨-, -, hc⟩ := hs.fitsAt hp
    have hc : s.cnt.toNat ≤ 5 := hc
    simp only [stepsLeft, hp]
    omega
  case rrSkipFirst hp hl _ =>
    obtain ⟨⟨-, -, hlens⟩, -⟩ := hs.fitsAt hp
    have hlens : s.len = 1 ∨ s.len = 2 ∨ s.len = 5 := hlens
    have hlen : s.len.toNat ≤ 5 := by bv_omega
    have hlt := hshort hl
    simp only [stepsLeft, hp, BitVec.ofNat_eq_ofNat, xchg_len]
    omega
  case rrRestNext hp _ _ =>
    obtain ⟨-, -, hlen, -⟩ := hs.fitsAt hp
    have hlen : s.cnt.toNat < s.len.toNat := hlen
    simp only [stepsLeft, xchg_phase, xchg_len, hp]
    omega
  case brStatusZero hp _ =>
    have hlt := hshort (limitReached_of_status_to_token hr h hp rfl)
    simp only [stepsLeft, hp]
    omega
  case brTokenStart hp hl _ =>
    have hlt := hshort hl
    simp only [stepsLeft, hp, BitVec.ofNat_eq_ofNat, BitVec.toNat_zero]
    omega
  case brCrcFirst hp =>
    have hfirst := cnt_of_stays_brCrc hr h hp hp
    simp only [stepsLeft, xchg_phase, hp, hfirst]
    decide
  case brCrcLast hp =>
    obtain ⟨-, -, -, -, hc, -⟩ := hs.fitsAt hp
    have hc : s.cnt.toNat ≤ 1 := hc
    simp only [stepsLeft, hp]
    omega
  case puClkNext hp _ =>
    obtain ⟨-, -, hlt⟩ := hs.fitsAt hp
    have hlt : s.cnt.toNat < s.cfg.powerupExchanges := hlt
    simp only [stepsLeft, xchg_phase, xchg_cfg, hp]
    omega

end

/-- The rows leave the reset input alone (R221). -/
theorem RowMove.rst {s t : State} (h : RowMove s t) : t.rst = s.rst := by cases h <;> rfl

/-- An operation in flight completes within the steps it has left. -/
theorem run_completes {n : Nat} (k : Nat) {s : State} (hs : Inv s) (hr : s.rst = false) (hbusy : s.phase ≠ .idle)
    (hlim : s.cfg.pollLimit = .upTo n) (hk : stepsLeft n s ≤ k) :
    ∃ m ≤ k, ∃ t, run m s = .next t ∧ t.phase = .idle ∧ t.results = t.kind :: s.results ∧ Inv t := by
  induction k generalizing s with
  | zero => exact absurd (stepsLeft_pos hs hbusy hlim) (by omega)
  | succ k ih =>
    obtain ⟨t, ht⟩ := step_next hs
    have hlt := stepsLeft_lt hr ht hs hbusy hlim
    have hrow := rowMove_of_step hr hbusy ht
    have hinv := step_inv ht hs
    rcases hrow.ends with ⟨hidle, -, hresults, -⟩ | ⟨hbusy', -, hresults, -⟩
    · exact ⟨1, by omega, t, run_one ht, hidle, hresults, hinv⟩
    · obtain ⟨hcfg, -⟩ := hrow.latches
      obtain ⟨m, hm, u, hrun, hend⟩ := ih hinv (hrow.rst.trans hr) hbusy' (hcfg ▸ hlim) (by omega)
      rw [hresults] at hend
      exact ⟨m + 1, by omega, u, (run_succ ht).trans hrun, hend⟩

/-- Settles O34: an operation in flight has at most `2 * POLL_LIMIT + 523` steps left, and completes within them. -/
theorem finiteLimitTerminates : Obligations.FiniteLimitTerminates :=
  fun _ n hs hr hbusy hlim => run_completes (2 * n + 523) hs hr hbusy hlim (stepsLeft_le n hs)

end Sys2Proof.Machine

/-! PROOFS. Reset, the end of a run, and the breach of the chip-select precondition (spec/70_reset_and_hazards.md R221 to R226,
R239). -/

namespace Sys2Proof.Machine

/-! ### The end of a run -/

/-- "With none left the host does nothing" (R222, R239). -/
theorem takeCall_of_nil {s : State} (hc : s.calls = []) : takeCall s = s := by simp only [takeCall, hc]

/-- With nothing in flight, at the port or left to call, no agent moves. -/
theorem RunOver.step_self {s : State} (h : RunOver s) : step s = .next s := by
  obtain ⟨hr, hp, hq, hprog, hcalls, -⟩ := h
  rw [step_of_free hr hp hq hprog, takeCall_of_nil hcalls]

/-- A reset notes the operation it gives up, in flight or at the port, besides one given up before (R221, log 24). -/
theorem resetStep_abandoned_iff (s : State) :
    (resetStep s).abandoned = true ↔ s.abandoned = true ∨ s.phase ≠ .idle ∨ s.req ≠ none := by
  simp [or_assoc, Option.isSome_iff_ne_none]

theorem not_runOver_resetStep {s : State} (h : s.phase ≠ .idle ∨ s.req ≠ none) : ¬ RunOver (resetStep s) := by
  rintro ⟨-, -, -, -, -, hab⟩
  exact Bool.false_ne_true (hab.symm.trans ((resetStep_abandoned_iff s).2 (.inr h)))

/-- The transition that completes the last operation of a host with nothing left to do ends the run (R239). -/
theorem RowMove.runOver {s t : State} (h : RowMove s t) (hr : s.rst = false) (hq : s.req = none) (hprog : s.prog = .free)
    (hcalls : s.calls = []) (hidle : t.phase = .idle) : RunOver t := by
  obtain ⟨-, hprog', -, -, -, hcalls'⟩ := h.sameHost
  rcases h.ends with ⟨-, -, -, hab⟩ | ⟨hbusy, -⟩
  · exact ⟨h.rst.trans hr, hidle, h.req.trans hq, hprog'.trans hprog, hcalls'.trans hcalls, hab⟩
  · exact absurd hidle hbusy

/-- Settles O7: a finished run has no agent that moves, a reset notes what it abandons, and `Complete` clears that note. -/
theorem finishedRunStaysFinished : Obligations.FinishedRunStaysFinished := by
  intro s
  refine ⟨RunOver.step_self, ?_, ?_, ?_⟩
  · rintro hbusy ⟨-, hidle, -⟩
    exact hbusy hidle
  · intro hr habandons t h
    cases (step_of_reset hr).symm.trans h
    exact not_runOver_resetStep habandons
  · intro hr hbusy hq hprog hcalls t h hidle
    have hover := (rowMove_of_step hr hbusy h).runOver hr hq hprog hcalls hidle
    exact ⟨hover, and_iff_right hover⟩

/-! ### The reset input -/

/-- "No `Complete`, no result" (R221). -/
@[simp] theorem resetStep_results (s : State) : (resetStep s).results = s.results := by
  unfold resetStep blockReset; dsimp only; split <;> rfl

@[simp] theorem resetStep_diag (s : State) : (resetStep s).diag = s.diag := by
  unfold resetStep blockReset; dsimp only; split <;> rfl

/-- Settles O9: the step is `resetStep`; the registers and the host's fields by evaluation, the records, the stream, the mark of
an abandoned operation and the buffer by their lemmas. -/
theorem blockResetAbandonsOperation : Obligations.BlockResetAbandonsOperation := by
  intro s hr
  refine ⟨resetStep s, step_of_reset hr, rfl, rfl, rfl, rfl, rfl, rfl, rfl, rfl, rfl, resetStep_results s, resetStep_trace s,
    resetStep_diag s, resetStep_card s, rfl, resetStep_cfg s, resetStep_abandoned_iff s, resetStep_buffer_of_not_rdblk, ?_⟩
  intro hcur i hi
  obtain ⟨hbuf, hepoch⟩ := resetStep_buffer_of_rdblk hcur
  exact hepoch ▸ hostMemRead_undefined rfl hbuf hi

/-! ### The breach of the chip-select precondition -/

/-- Step (2) of acceptance (R30) when the precondition is broken: the operands are not latched. -/
theorem accept_breach {s : State} (hp : s.phase = .idle) (latched : State) :
    accept true latched s = .next (raise .protocolViolation s) :=
  if_neg (not_not_intro hp)

theorem exec_send_of_cycleOpen {s : State} (hp : s.phase = .idle) (hcs : s.cs = true) (idx : CmdIdx) (arg : Word) :
    exec (.send idx arg) s = .next (raise .protocolViolation s) := by
  rw [exec, execSend, cycleOpen, hcs, accept_breach hp]

theorem exec_rdblk_of_cycleOpen {s : State} (hp : s.phase = .idle) (hcs : s.cs = true) (addr : Word) :
    exec (.rdblk addr) s = .next (raise .protocolViolation s) := by
  rw [exec, execRdblk, cycleOpen, hcs, accept_breach hp]

theorem exec_respOf_of_cycleClosed {s : State} (hp : s.phase = .idle) (hcs : s.cs = false) (l : RespLen) :
    exec (respOf l) s = .next (raise .protocolViolation s) := by
  have hexec : exec (respOf l) s = acceptResp l s := by cases l <;> rfl
  rw [hexec, acceptResp, cycleClosed, hcs, Bool.not_false, accept_breach hp]

/-- Settles O10: SEND and RDBLK in an open cycle and RESP in a closed one all take the branch of `accept_breach`. -/
theorem preconditionBreachIsRefused : Obligations.PreconditionBreachIsRefused := fun _ hp =>
  ⟨fun hcs => ⟨exec_send_of_cycleOpen hp hcs, exec_rdblk_of_cycleOpen hp hcs⟩, exec_respOf_of_cycleClosed hp⟩

end Sys2Proof.Machine
